-- ==== Sys2Proof/Word.lean ====
section
/-! DEFINITION. The word types of the machine (spec/00_scope.md R6, R9; spec/45_binary_loader.md R230). -/

namespace Sys2Proof

/-- A 12-bit word: the width of every register but the link, of an address and of a memory cell (R6). -/
abbrev Word := BitVec 12

/-- The one-bit link (R23). -/
abbrev Link := BitVec 1

/-- The low seven bits of a memory-reference word, zero-extended wherever they are used (R71, R74). -/
abbrev Offset := BitVec 7

/-- One byte of a paper tape, 0..255 (R230). -/
abbrev TapeByte := BitVec 8

end Sys2Proof
end

