-- ==== Sys2Proof/Syntax.lean ====
section
/-! DEFINITION. The instructions: one constructor for each row of spec/opcode_table.json
(spec/30_encoding.md R78 to R87). -/

namespace Sys2Proof

/-- The eight opcodes, in the order of R78. -/
inductive Opcode where
  | and | tad | isz | dca | jms | jmp | iot | opr
  deriving DecidableEq, Repr

/-- The control field of a Group 1 word, one Boolean for each bit of R80. `two` is the 0o002 bit, which
makes RTR of RAR and RTL of RAL. -/
structure Group1 where
  cla : Bool := false
  cll : Bool := false
  cma : Bool := false
  cml : Bool := false
  rar : Bool := false
  ral : Bool := false
  two : Bool := false
  iac : Bool := false
  deriving DecidableEq, Repr

/-- The control field of a Group 2 word, one Boolean for each bit of R81. `minus`, `zero` and `link` are
the bits 0o100, 0o040 and 0o020: SMA, SZA, SNL with the sense bit clear and SPA, SNA, SZL with it set. -/
structure Group2 where
  cla : Bool := false
  minus : Bool := false
  zero : Bool := false
  link : Bool := false
  sense : Bool := false
  osr : Bool := false
  hlt : Bool := false
  deriving DecidableEq, Repr

/-- An instruction. A memory-reference constructor holds the indirect flag, the page flag and the offset
of R71. A constructor named after a micro-operation or a pseudo mnemonic stands for that word alone; every
other combination of micro-operations is `opr1` or `opr2` (notes/assumptions/6.md). -/
inductive Instr where
  /-- AND, R132. -/
  | and (indirect page : Bool) (offset : Offset)
  /-- TAD, R133. -/
  | tad (indirect page : Bool) (offset : Offset)
  /-- ISZ, R135. -/
  | isz (indirect page : Bool) (offset : Offset)
  /-- DCA, R136. -/
  | dca (indirect page : Bool) (offset : Offset)
  /-- JMS, R137. -/
  | jms (indirect page : Bool) (offset : Offset)
  /-- JMP, R138. -/
  | jmp (indirect page : Bool) (offset : Offset)
  /-- IOT with its uninterpreted control field, R83, R161. -/
  | iot (control : BitVec 9)
  /-- A combination of Group 1 micro-operations, R171. -/
  | opr1 (ops : Group1)
  /-- NOP, the empty Group 1 field, R184. -/
  | nop
  /-- CLA of Group 1 alone, R172. -/
  | cla1
  /-- CLL alone, R173. -/
  | cll
  /-- CMA alone, R174. -/
  | cma
  /-- CML alone, R175. -/
  | cml
  /-- RAR alone, R177. -/
  | rar
  /-- RAL alone, R178. -/
  | ral
  /-- RTR alone, R180. -/
  | rtr
  /-- RTL alone, R181. -/
  | rtl
  /-- The 0o002 bit alone, R182. -/
  | rot2Alone
  /-- IAC alone, R176. -/
  | iac
  /-- A combination of Group 2 micro-operations, R201. -/
  | opr2 (ops : Group2)
  /-- SMA alone, R202. -/
  | sma
  /-- SZA alone, R203. -/
  | sza
  /-- SNL alone, R204. -/
  | snl
  /-- SPA alone, R205. -/
  | spa
  /-- SNA alone, R206. -/
  | sna
  /-- SZL alone, R207. -/
  | szl
  /-- SKP alone, R208. -/
  | skp
  /-- CLA of Group 2 alone, R212. -/
  | cla2
  /-- OSR alone, R213. -/
  | osr
  /-- HLT alone, R214. -/
  | hlt
  /-- The empty Group 2 field, R215. -/
  | nop2
  /-- The third operate group with its bits 7..1, R217. -/
  | opr3 (bits : BitVec 7)
  /-- CIA = CMA IAC, R87. -/
  | cia
  /-- STL = CLL CML, R87. -/
  | stl
  /-- GLK = CLA RAL, R87. -/
  | glk
  /-- STA = CLA CMA, R87. -/
  | sta
  /-- LAS = CLA OSR, R87. -/
  | las
  deriving DecidableEq, Repr

end Sys2Proof
end

