-- ==== Sys2Proof/WellFormed.lean ====
section
/-! DEFINITION. Which terms of Instr stand for a word. Every operand has the exact width of its field, so
the only check is that a group word with a name of its own in the opcode table is written by that name
(spec/30_encoding.md R82, R87; notes/assumptions/6.md). -/

namespace Sys2Proof

/-- The Group 1 words that have a row of their own: NOP, the single micro-operations, RTR, RTL, the 0o002
bit alone, and the pseudo mnemonics CIA, STL, GLK, STA. -/
def namedGroup1 : List Group1 :=
  [{ cla := false }, { cla := true }, { cll := true }, { cma := true }, { cml := true },
    { rar := true }, { ral := true }, { rar := true, two := true }, { ral := true, two := true },
    { two := true }, { iac := true }] ++
  [{ cma := true, iac := true }, { cll := true, cml := true }, { cla := true, ral := true },
    { cla := true, cma := true }]

/-- The Group 2 words that have a row of their own: the empty field, the single micro-operations and the
pseudo mnemonic LAS. -/
def namedGroup2 : List Group2 :=
  [{ cla := false }, { minus := true }, { zero := true }, { link := true }, { sense := true, minus := true },
    { sense := true, zero := true }, { sense := true, link := true }, { sense := true }] ++
  [{ cla := true }, { osr := true }, { hlt := true }, { cla := true, osr := true }]

/-- A combination is written as `opr1` or `opr2` only when no row of the table names its word alone. -/
def Instr.wellFormed : Instr → Bool
  | .opr1 ops => !namedGroup1.contains ops
  | .opr2 ops => !namedGroup2.contains ops
  | .and _ _ _ | .tad _ _ _ | .isz _ _ _ | .dca _ _ _ | .jms _ _ _ | .jmp _ _ _ | .iot _
  | .nop | .cla1 | .cll | .cma | .cml | .rar | .ral | .rtr | .rtl | .rot2Alone | .iac
  | .sma | .sza | .snl | .spa | .sna | .szl | .skp | .cla2 | .osr | .hlt | .nop2
  | .opr3 _ | .cia | .stl | .glk | .sta | .las => true

end Sys2Proof
end

