-- ==== Sys2Proof/Decode.lean ====
section
/-! DEFINITION. The decoder (spec/30_encoding.md R70 to R84) and, after it, the encoder. -/

namespace Sys2Proof

/-- w[11:9], R73. -/
def opcodeField (w : Word) : BitVec 3 := w.extractLsb' 9 3

/-- w[8], the indirect flag, R71. -/
def indirectBit (w : Word) : Bool := w.getLsbD 8

/-- w[7], the page flag, R71. -/
def pageBit (w : Word) : Bool := w.getLsbD 7

/-- w[6:0], R71. -/
def offsetField (w : Word) : Offset := w.extractLsb' 0 7

/-- w[8:0], the control field, R72. -/
def controlField (w : Word) : BitVec 9 := w.extractLsb' 0 9

/-- The opcode an opcode field selects, R78. -/
def opcodeOfField (f : BitVec 3) : Opcode :=
  if f = 0 then .and else if f = 1 then .tad else if f = 2 then .isz else if f = 3 then .dca
  else if f = 4 then .jms else if f = 5 then .jmp else if f = 6 then .iot else .opr

/-- The opcode of a word, R78. -/
def opcodeOf (w : Word) : Opcode := opcodeOfField (opcodeField w)

/-- The Group 1 bits of a word, R80. -/
def group1Bits (w : Word) : Group1 where
  cla := w.getLsbD 7
  cll := w.getLsbD 6
  cma := w.getLsbD 5
  cml := w.getLsbD 4
  rar := w.getLsbD 3
  ral := w.getLsbD 2
  two := w.getLsbD 1
  iac := w.getLsbD 0

/-- The Group 2 bits of a word, R81. -/
def group2Bits (w : Word) : Group2 where
  cla := w.getLsbD 7
  minus := w.getLsbD 6
  zero := w.getLsbD 5
  link := w.getLsbD 4
  sense := w.getLsbD 3
  osr := w.getLsbD 2
  hlt := w.getLsbD 1

/-- The Group 1 words with a name of their own, R80, R87. -/
def group1Names : List (Group1 × Instr) :=
  [({ cla := false }, .nop), ({ cla := true }, .cla1), ({ cll := true }, .cll), ({ cma := true }, .cma),
    ({ cml := true }, .cml), ({ rar := true }, .rar), ({ ral := true }, .ral),
    ({ rar := true, two := true }, .rtr), ({ ral := true, two := true }, .rtl),
    ({ two := true }, .rot2Alone), ({ iac := true }, .iac)] ++
  [({ cma := true, iac := true }, .cia), ({ cll := true, cml := true }, .stl),
    ({ cla := true, ral := true }, .glk), ({ cla := true, cma := true }, .sta)]

/-- The Group 2 words with a name of their own, R81, R87. -/
def group2Names : List (Group2 × Instr) :=
  [({ cla := false }, .nop2), ({ minus := true }, .sma), ({ zero := true }, .sza), ({ link := true }, .snl),
    ({ sense := true, minus := true }, .spa), ({ sense := true, zero := true }, .sna),
    ({ sense := true, link := true }, .szl), ({ sense := true }, .skp)] ++
  [({ cla := true }, .cla2), ({ osr := true }, .osr), ({ hlt := true }, .hlt),
    ({ cla := true, osr := true }, .las)]

/-- The instruction of a Group 1 control field, R79, R80. -/
def decodeGroup1 (ops : Group1) : Instr := (group1Names.lookup ops).getD (.opr1 ops)

/-- The instruction of a Group 2 control field, R79, R81. -/
def decodeGroup2 (ops : Group2) : Instr := (group2Names.lookup ops).getD (.opr2 ops)

/-- An OPR word: w[8] clear is Group 1; w[8] set is Group 2 when w[0] is clear and the third group when
w[0] is set, R79. -/
def decodeOperate (w : Word) : Instr :=
  if w.getLsbD 8 = false then decodeGroup1 (group1Bits w)
  else if w.getLsbD 0 = false then decodeGroup2 (group2Bits w)
  else .opr3 (w.extractLsb' 1 7)

/-- The decoder: total over all 4096 words, R70, R73. -/
def decodeWord (w : Word) : Instr :=
  match opcodeOf w with
  | .and => .and (indirectBit w) (pageBit w) (offsetField w)
  | .tad => .tad (indirectBit w) (pageBit w) (offsetField w)
  | .isz => .isz (indirectBit w) (pageBit w) (offsetField w)
  | .dca => .dca (indirectBit w) (pageBit w) (offsetField w)
  | .jms => .jms (indirectBit w) (pageBit w) (offsetField w)
  | .jmp => .jmp (indirectBit w) (pageBit w) (offsetField w)
  | .iot => .iot (controlField w)
  | .opr => decodeOperate w

/-- Why a number is no instruction word. -/
inductive DecodeError where
  /-- The number does not fit in the 12 bits of an instruction word (R70). -/
  | tooWide
  deriving DecidableEq, Repr

/-- The instruction of a number, refused by name when it has a bit above bit 11. -/
def decodeNumber (v : Nat) : Except DecodeError Instr :=
  if v < 4096 then .ok (decodeWord (BitVec.ofNat 12 v)) else .error .tooWide

/-- The instruction of `nbits` table bits `w`, every higher bit 0. An instruction is one word, so the table's
bit 0 is bit 0 of the word (R7, R70; notes/assumptions/22.md). -/
def decodeTableWord (nbits w : Nat) : Option Instr :=
  match decodeNumber (w % 2 ^ nbits) with
  | .ok i => some i
  | .error .tooWide => none

/-! The encoder. -/

/-- w[7:0] of a Group 1 word, R80. -/
def Group1.control (ops : Group1) : BitVec 8 :=
  BitVec.ofBool ops.cla ++ BitVec.ofBool ops.cll ++ BitVec.ofBool ops.cma ++ BitVec.ofBool ops.cml ++
    BitVec.ofBool ops.rar ++ BitVec.ofBool ops.ral ++ BitVec.ofBool ops.two ++ BitVec.ofBool ops.iac

/-- w[7:0] of a Group 2 word, R81: bit 0 is 0. -/
def Group2.control (ops : Group2) : BitVec 8 :=
  BitVec.ofBool ops.cla ++ BitVec.ofBool ops.minus ++ BitVec.ofBool ops.zero ++ BitVec.ofBool ops.link ++
    BitVec.ofBool ops.sense ++ BitVec.ofBool ops.osr ++ BitVec.ofBool ops.hlt ++ 0#1

/-- A memory-reference word, R71. -/
def memRefWord (op : BitVec 3) (indirect page : Bool) (offset : Offset) : Word :=
  op ++ BitVec.ofBool indirect ++ BitVec.ofBool page ++ offset

/-- The word of an instruction: the formats of R71 and R72, and for a named group word the word of its rule
(R172 to R184, R202 to R215, R87). -/
def encode : Instr → Word
  | .and i p o => memRefWord 0 i p o
  | .tad i p o => memRefWord 1 i p o
  | .isz i p o => memRefWord 2 i p o
  | .dca i p o => memRefWord 3 i p o
  | .jms i p o => memRefWord 4 i p o
  | .jmp i p o => memRefWord 5 i p o
  | .iot c => 6#3 ++ c
  | .opr1 ops => 0b1110#4 ++ ops.control
  | .nop => 0o7000
  | .cla1 => 0o7200
  | .cll => 0o7100
  | .cma => 0o7040
  | .cml => 0o7020
  | .rar => 0o7010
  | .ral => 0o7004
  | .rtr => 0o7012
  | .rtl => 0o7006
  | .rot2Alone => 0o7002
  | .iac => 0o7001
  | .opr2 ops => 0b1111#4 ++ ops.control
  | .sma => 0o7500
  | .sza => 0o7440
  | .snl => 0o7420
  | .spa => 0o7510
  | .sna => 0o7450
  | .szl => 0o7430
  | .skp => 0o7410
  | .cla2 => 0o7600
  | .osr => 0o7404
  | .hlt => 0o7402
  | .nop2 => 0o7400
  | .opr3 b => 0b1111#4 ++ b ++ 1#1
  | .cia => 0o7041
  | .stl => 0o7120
  | .glk => 0o7204
  | .sta => 0o7240
  | .las => 0o7604

end Sys2Proof
end

