-- ==== Sys2Proof/Machine/Flags.lean ====
section
/-! DEFINITION. The 12-bit modular arithmetic unit: sums, the link, the 13-bit rotates and the Group 2 skip tests
(spec/41_memory_reference.md R133, R134; spec/43_operate_group1.md R179; spec/44_operate_group2.md R201). -/

namespace Sys2Proof.Machine

/-- The sum before reduction, 0..8190 (R133). -/
def unboundedSum (a b : Word) : Nat := a.toNat + b.toNat

/-- The sum modulo 4096 (R134). -/
def addWord (a b : Word) : Word := BitVec.ofNat 12 (unboundedSum a b)

/-- 1 - L (R133, R175). -/
def toggleLink (l : Link) : Link := 1 - l

/-- The link after TAD: toggled exactly when the unbounded sum reaches 4096 (R133). -/
def tadLink (l : Link) (a b : Word) : Link := if 4096 ≤ unboundedSum a b then toggleLink l else l

/-- (v + 1) mod 4096, the carry discarded (R134): IAC, ISZ, the PC advance and the auto-increment. -/
def increment (v : Word) : Word := addWord v 1

/-- The 12-bit complement, 4095 - v (R174). -/
def complement (v : Word) : Word := BitVec.ofNat 12 (4095 - v.toNat)

/-- The 13-bit value with the link as bit 12 (R179). -/
def pack13 (l : Link) (ac : Word) : BitVec 13 := l ++ ac

/-- Bit 12 of a 13-bit value (R171). -/
def linkOf13 (x : BitVec 13) : Link := x.extractLsb' 12 1

/-- Bits 11..0 of a 13-bit value (R171). -/
def acOf13 (x : BitVec 13) : Word := x.extractLsb' 0 12

/-- Rotate right one place: bit 0 goes to bit 12 (R179). -/
def rotr13 (x : BitVec 13) : BitVec 13 := (x >>> 1) ||| ((x &&& 1) <<< 12)

/-- Rotate left one place: bit 12 goes to bit 0 (R179). -/
def rotl13 (x : BitVec 13) : BitVec 13 := ((x <<< 1) &&& 0o17777) ||| (x >>> 12)

/-- AC[11] = 1, the test of SMA (R202). -/
def testMinus (ac : Word) : Bool := ac.getLsbD 11

/-- AC = 0, the test of SZA (R203). -/
def testZero (ac : Word) : Bool := ac == 0

/-- L != 0, the test of SNL (R204). -/
def testLink (l : Link) : Bool := l != 0

end Sys2Proof.Machine
end

