-- ==== Sys2Proof/Config.lean ====
section
/-! DEFINITION. The implementation parameters of spec/00_scope.md R6. The spec leaves no value open, so
there is no free value here. -/

namespace Sys2Proof.Config

/-- MEM_WORDS: memory has the addresses 0..4095 (R6, R50). -/
abbrev memWords : Nat := 4096

/-- AUTOINC_LO: the first auto-increment cell (R6, R55). -/
abbrev autoIncLo : Word := 0o10

/-- AUTOINC_HI: the last auto-increment cell (R6, R55). -/
abbrev autoIncHi : Word := 0o17

/-- LEADER: the tape byte the loader skips (R6, R238). -/
abbrev leader : TapeByte := 0o200

/-- ORIGIN tag: bit 6 of a tape byte (R6, R239). -/
abbrev originTag : TapeByte := 0o100

/-- LAUNCH_PC: the default program counter of a launch, the value at construction (R6, D14). -/
abbrev launchPc : Word := 0

end Sys2Proof.Config
end

