-- ==== Sys2Proof/Machine/State.lean ====
section
/-! DEFINITION. The state of the machine (spec/10_state.md R20), its stops and its value at construction. -/

namespace Sys2Proof.Machine

/-- The cycle state STATE (R30). `brk` is the spec's Break. -/
inductive Cycle where
  | fetch | defer | execute | brk
  deriving DecidableEq, Repr

/-- The error kinds step() raises (R260, R33). -/
inductive ErrorKind where
  /-- Fetch of an IOT word or of a third-group OPR word (R261). -/
  | notImplemented
  /-- Execute with opcode JMP, IOT or OPR (R262). -/
  | internalInvariantViolation
  deriving DecidableEq, Repr

/-- The loader's only error (R263). -/
inductive LoaderError where
  /-- The stream cannot be opened or read at all (R241). -/
  | unreadable
  deriving DecidableEq, Repr

/-- Memory M (R50): cells (address, word) with strictly rising addresses below 4096 and no word 0. An address
that is not listed holds 0, the value of every cell at construction (R290; notes/assumptions/1.md). -/
abbrev Memory := List (Nat × Word)

/-- The state record of R20, and the driver's single-step switch of R38 (notes/assumptions/9.md). -/
structure State where
  /-- PC, the program counter (R24). -/
  pc : Word
  /-- AC, the accumulator (R22). -/
  ac : Word
  /-- L, the link (R23). -/
  l : Link
  /-- MA, the memory-address latch (R25). -/
  ma : Word
  /-- MB, the memory-data latch (R26). -/
  mb : Word
  /-- SR, the switch register (R28). -/
  sr : Word
  /-- IR, the instruction register: the whole fetched word (R27). -/
  ir : Word
  /-- RUN, the run flag (R29). -/
  run : Bool
  /-- STATE, the cycle state (R30). -/
  cycle : Cycle
  /-- CYC, the cycle counter (R31). -/
  cyc : Nat
  /-- INS, the instruction counter (R32). -/
  ins : Nat
  /-- M, the memory array (R50). -/
  mem : Memory
  /-- FAULT, the first error raised (R33). -/
  fault : Option ErrorKind
  /-- SS, the driver's single-step switch, which the engine neither reads nor writes (R38). -/
  ss : Bool
  deriving DecidableEq, Repr

/-- Why a step has no next state. -/
inductive Fault where
  /-- Raised by the Execute cycle of a JMP, IOT or OPR word. The spec gives that step no successor state (R115,
  notes/assumptions/5.md). Safe: the machine stops where the spec gives no register values. -/
  | internalInvariantViolation
  /-- Raised by step from a state whose FAULT is set: no further step is taken from it (R33, R113,
  notes/assumptions/4.md). Safe: the machine stops where the spec takes no step. -/
  | alreadyFaulted (kind : ErrorKind)
  deriving DecidableEq, Repr

/-- Why the model has no meaning for an instruction. -/
inductive Refusal where
  /-- Raised by an arm of exec whose instruction has no meaning yet; no arm does. Safe: the machine stops. -/
  | notModelled (mnemonic : String)
  deriving DecidableEq, Repr

/-- What a step or a meaning answers. -/
abbrev Answer := Host.Outcome State Fault Refusal

/-- The machine at construction: the column "at construction" of R43 (R290; notes/assumptions/2.md). -/
def State.reset : State where
  pc := Config.launchPc
  ac := 0
  l := 0
  ma := 0
  mb := 0
  sr := 0
  ir := 0
  run := false
  cycle := .fetch
  cyc := 0
  ins := 0
  mem := []
  fault := none
  ss := false

end Sys2Proof.Machine
end

