-- ==== Sys2Proof/Machine/Ops.lean ====
section
/-! DEFINITION. The named operations over memory and registers that every step and meaning is made of, and
raising an error (spec/20_memory.md; spec/40_cycle_engine.md; spec/60_exceptions.md). -/

namespace Sys2Proof.Machine

/-! Memory (R50 to R52). -/

/-- The word at an address (R51). -/
def Memory.read : Memory → Nat → Word
  | [], _ => 0
  | (k, x) :: m, a => if k = a then x else Memory.read m a

/-- The memory without a listed cell at `a`, so that it reads 0. -/
def Memory.erase : Memory → Nat → Memory
  | [], _ => []
  | (k, x) :: m, a => if k = a then Memory.erase m a else (k, x) :: Memory.erase m a

/-- The memory with a cell listed at its place in the rising order. -/
def Memory.insert : Memory → Nat → Word → Memory
  | [], a, v => [(a, v)]
  | (k, x) :: m, a, v => if a < k then (a, v) :: (k, x) :: m else (k, x) :: Memory.insert m a v

/-- The memory with `v` at `a` (R52). Writing 0, what an unlisted cell reads, removes the cell. -/
def Memory.write (m : Memory) (a : Nat) (v : Word) : Memory :=
  if v = 0 then Memory.erase m a else Memory.insert (Memory.erase m a) a v

/-- Addresses strictly rising from `lo`, below 4096, and no word 0. -/
def Memory.wfFrom : Nat → Memory → Bool
  | _, [] => true
  | lo, (k, x) :: m => decide (lo ≤ k) && decide (k < Config.memWords) && (x != 0) && Memory.wfFrom (k + 1) m

/-- The canonical form of memory (notes/assumptions/1.md). -/
def Memory.wf (m : Memory) : Bool := Memory.wfFrom 0 m

/-! Registers (R21: every write is taken modulo the register's range, which the types hold). -/

/-- PC <- v. -/
def State.setPc (s : State) (v : Word) : State := { s with pc := v }
/-- AC <- v. -/
def State.setAc (s : State) (v : Word) : State := { s with ac := v }
/-- L <- v. -/
def State.setL (s : State) (v : Link) : State := { s with l := v }
/-- MA <- v. -/
def State.setMa (s : State) (v : Word) : State := { s with ma := v }
/-- MB <- v. -/
def State.setMb (s : State) (v : Word) : State := { s with mb := v }
/-- SR <- v. -/
def State.setSr (s : State) (v : Word) : State := { s with sr := v }
/-- IR <- v. -/
def State.setIr (s : State) (v : Word) : State := { s with ir := v }
/-- RUN <- v. -/
def State.setRun (s : State) (v : Bool) : State := { s with run := v }
/-- STATE <- v. -/
def State.setCycle (s : State) (v : Cycle) : State := { s with cycle := v }
/-- CYC <- v. -/
def State.setCyc (s : State) (v : Nat) : State := { s with cyc := v }
/-- INS <- v. -/
def State.setIns (s : State) (v : Nat) : State := { s with ins := v }
/-- M <- v. -/
def State.setMem (s : State) (v : Memory) : State := { s with mem := v }
/-- FAULT <- v. -/
def State.setFault (s : State) (v : Option ErrorKind) : State := { s with fault := v }
/-- SS <- v. -/
def State.setSs (s : State) (v : Bool) : State := { s with ss := v }

/-- MemRead(a, 1) (R51). -/
def State.readMem (s : State) (a : Word) : Word := s.mem.read a.toNat

/-- MemWrite(a, 1, v) (R52). -/
def State.writeMem (s : State) (a v : Word) : State := s.setMem (s.mem.write a.toNat v)

/-- An effect applied only when its bit is set. -/
def applyIf (b : Bool) (f : State → State) (s : State) : State := if b then f s else s

/-! The parts of a step that do not depend on the instruction. -/

/-- Fetch's read: MB <- M[PC], PC <- PC + 1, IR <- MB (R102). The fourth write of R102, MA <- EA(IR, PC), is the
first write of every meaning's Fetch part (`latchAddress`; notes/assumptions/7.md). -/
def fetchWord (s : State) : State :=
  let w := s.readMem s.pc
  ((s.setMb w).setPc (increment s.pc)).setIr w

/-- What step() does before the instruction's own part: count the cycle (R110) and, in Fetch, read the word. -/
def beginStep (s : State) : State :=
  let s1 := s.setCyc (s.cyc + 1)
  match s1.cycle with
  | .fetch => fetchWord s1
  | .defer => s1
  | .execute => s1
  | .brk => s1

/-- The last effect of a step: INS + 1 when it lands on Fetch from another state (R111). A step that raises
NotImplemented goes from Fetch to Fetch, so it never counts (R113). -/
def countInstruction (before : Cycle) (s : State) : State :=
  if s.cycle = .fetch ∧ before ≠ .fetch then s.setIns (s.ins + 1) else s

/-- The instruction's own part of a step, followed by the instruction count. -/
def endStep (before : Cycle) : Answer → Answer
  | .next s => .next (countInstruction before s)
  | .fault f => .fault f
  | .refused r => .refused r

/-- Break: a passthrough to Fetch (R109). -/
def breakCycle (s : State) : State := s.setCycle .fetch

/-- What an instruction does in each of the four cycle states (R100). Break does not depend on it. -/
def byCycle (onFetch onDefer onExecute : State → Answer) (s : State) : Answer :=
  match s.cycle with
  | .fetch => onFetch s
  | .defer => onDefer s
  | .execute => onExecute s
  | .brk => .next (breakCycle s)

/-! Errors. There is no trap: an error saves nothing, changes no mode and transfers control nowhere, and there is no
return from one (R269, R270). -/

/-- Raising NotImplemented in Fetch: STATE stays Fetch and FAULT records the error; everything else is kept
(R113, R161; notes/assumptions/4.md). -/
def raiseNotImplemented (s : State) : Answer := .next (s.setFault (some .notImplemented))

/-- Raising InternalInvariantViolation in Execute: no successor state (R115; notes/assumptions/5.md). -/
def raiseInternalInvariantViolation (_ : State) : Answer := .fault .internalInvariantViolation

/-! Micro-operations and control effects on registers. -/

/-- PC <- PC + 1, the skip (R117, R210). -/
def skipNext (s : State) : State := s.setPc (increment s.pc)

/-- AC <- 0 (R172, R212). -/
def clearAc (s : State) : State := s.setAc 0

/-- L <- 0 (R173). -/
def clearLink (s : State) : State := s.setL 0

/-- AC <- complement of AC (R174). -/
def complementAc (s : State) : State := s.setAc (complement s.ac)

/-- L <- 1 - L (R175). -/
def complementLink (s : State) : State := s.setL (toggleLink s.l)

/-- AC <- AC + 1, the link untouched (R176). -/
def incrementAc (s : State) : State := s.setAc (increment s.ac)

/-- The 13-bit value of link and accumulator replaced (R171). -/
def setLinkAc (s : State) (x : BitVec 13) : State := (s.setL (linkOf13 x)).setAc (acOf13 x)

/-- One right rotate of link and accumulator (R177). -/
def rotateRight (s : State) : State := setLinkAc s (rotr13 (pack13 s.l s.ac))

/-- One left rotate of link and accumulator (R178). -/
def rotateLeft (s : State) : State := setLinkAc s (rotl13 (pack13 s.l s.ac))

/-- AC <- AC | SR (R213). -/
def orSwitches (s : State) : State := s.setAc (s.ac ||| s.sr)

/-- RUN <- false (R214). -/
def haltRun (s : State) : State := s.setRun false

end Sys2Proof.Machine
end

