-- ==== Sys2Proof/Machine/Operands.lean ====
section
/-! DEFINITION. Every operand form: the effective address of a word and the pointer of an indirect reference
(spec/30_encoding.md R75, R76; spec/40_cycle_engine.md R105 to R108; spec/41_memory_reference.md R131). -/

namespace Sys2Proof.Machine

/-- EA: the offset in page zero, or in the page of the advanced program counter (R75). -/
def effectiveAddress (page : Bool) (offset : Offset) (pcn : Word) : Word :=
  if page then (pcn &&& 0o7600) ||| offset.setWidth 12 else offset.setWidth 12

/-- MA <- EA(IR, PC), with the advanced PC (R102). -/
def latchAddress (page : Bool) (offset : Offset) (s : State) : State :=
  s.setMa (effectiveAddress page offset s.pc)

/-- MA <- EA of a word whose bits 7..0 are `c`: OPR and IOT words have a page bit and an offset too (R73, R186,
R218). -/
def latchControl (c : BitVec 8) (s : State) : State :=
  latchAddress (c.getLsbD 7) (c.setWidth 7) s

/-- 0o10 <= a <= 0o17 (R55). -/
def isAutoIncrement (a : Word) : Bool := decide (Config.autoIncLo ≤ a) && decide (a ≤ Config.autoIncHi)

/-- Defer's pointer: MB <- M[MA], incremented and written back when MA is an auto-increment cell (R105), then
MA <- MB (R106). -/
def derefPointer (s : State) : State :=
  let p := s.readMem s.ma
  let s1 := if isAutoIncrement s.ma then (s.setMb (increment p)).writeMem s.ma (increment p) else s.setMb p
  s1.setMa s1.mb

/-- Execute's read: MB <- M[MA] (R108). -/
def loadOperand (s : State) : State := s.setMb (s.readMem s.ma)

/-- The operand address of a whole memory-reference instruction, and memory once it is known, for the advanced
program counter `pcn` (R131). -/
def operandAddress (indirect page : Bool) (offset : Offset) (pcn : Word) (m : Memory) : Word × Memory :=
  let ea := effectiveAddress page offset pcn
  if indirect then
    let p := m.read ea.toNat
    if isAutoIncrement ea then (increment p, m.write ea.toNat (increment p)) else (p, m)
  else (ea, m)

end Sys2Proof.Machine
end

