-- ==== Sys2Proof/Machine/MemRef.lean ====
section
/-! DEFINITION. The memory-reference instructions AND, TAD, ISZ, DCA, JMS, JMP (spec/41_memory_reference.md;
spec/40_cycle_engine.md R100 to R108). A meaning says what the instruction does in the cycle state it is run in. -/

namespace Sys2Proof.Machine

/-- Defer of every instruction but JMP: the pointer into MA and MB, then Execute (R107). -/
def deferToExecute (s : State) : Answer := .next ((derefPointer s).setCycle .execute)

/-- The path of AND, TAD, ISZ, DCA, JMS: Fetch to Defer or Execute, Defer to Execute, and in Execute the operand read
and the instruction's own effect, then Fetch (R103, R107, R108, R130). -/
def memoryReference (indirect page : Bool) (offset : Offset) (effect : State → State) : State → Answer :=
  byCycle
    (fun s => .next ((latchAddress page offset s).setCycle (if indirect then .defer else .execute)))
    deferToExecute
    (fun s => .next ((effect (loadOperand s)).setCycle .fetch))

/-- AC <- AC & MB (R132). -/
def andEffect (s : State) : State := s.setAc (s.ac &&& s.mb)

/-- AC <- (AC + MB) mod 4096, L toggled on carry (R133). -/
def tadEffect (s : State) : State := (s.setL (tadLink s.l s.ac s.mb)).setAc (addWord s.ac s.mb)

/-- MB <- MB + 1, M[MA] <- MB, skip when MB is 0 (R135). -/
def iszEffect (s : State) : State :=
  let s1 := s.setMb (increment s.mb)
  applyIf (testZero s1.mb) skipNext (s1.writeMem s1.ma s1.mb)

/-- M[MA] <- AC, AC <- 0 (R136). -/
def dcaEffect (s : State) : State := clearAc (s.writeMem s.ma s.ac)

/-- M[MA] <- PC, PC <- MA + 1 (R137). -/
def jmsEffect (s : State) : State := (s.writeMem s.ma s.pc).setPc (increment s.ma)

/-- AND (R132). -/
def execAnd (indirect page : Bool) (offset : Offset) (s : State) : Answer :=
  memoryReference indirect page offset andEffect s

/-- TAD (R133). -/
def execTad (indirect page : Bool) (offset : Offset) (s : State) : Answer :=
  memoryReference indirect page offset tadEffect s

/-- ISZ (R135). -/
def execIsz (indirect page : Bool) (offset : Offset) (s : State) : Answer :=
  memoryReference indirect page offset iszEffect s

/-- DCA (R136). -/
def execDca (indirect page : Bool) (offset : Offset) (s : State) : Answer :=
  memoryReference indirect page offset dcaEffect s

/-- JMS (R137). -/
def execJms (indirect page : Bool) (offset : Offset) (s : State) : Answer :=
  memoryReference indirect page offset jmsEffect s

/-- JMP's Fetch part: to Defer, or PC <- MA at once (R103, R104). -/
def jmpFetch (indirect page : Bool) (offset : Offset) (s : State) : State :=
  let s1 := latchAddress page offset s
  if indirect then s1.setCycle .defer else (s1.setPc s1.ma).setCycle .fetch

/-- JMP's Defer part: PC <- MB, the pointer (R107). -/
def jmpDefer (s : State) : State :=
  let s1 := derefPointer s
  (s1.setPc s1.mb).setCycle .fetch

/-- JMP (R138): never reaches Execute (R115). -/
def execJmp (indirect page : Bool) (offset : Offset) (s : State) : Answer :=
  byCycle (fun s => .next (jmpFetch indirect page offset s)) (fun s => .next (jmpDefer s))
    raiseInternalInvariantViolation s

end Sys2Proof.Machine
end

