-- ==== Sys2Proof/Machine/Group1.lean ====
section
/-! DEFINITION. Operate Group 1 (spec/43_operate_group1.md). -/

namespace Sys2Proof.Machine

/-- An OPR word of Group 1 or 2 with bits 7..0 `c`: in Fetch, MA is latched (R102), the micro-operations are applied
and STATE is Fetch (R103). In Execute it is an invariant violation (R115); in Defer, which no transition reaches with
such a word, R100's block goes on to Execute (notes/assumptions/8.md). -/
def operate (c : BitVec 8) (microOps : State → State) : State → Answer :=
  byCycle (fun s => .next ((microOps (latchControl c s)).setCycle .fetch)) deferToExecute
    raiseInternalInvariantViolation

/-- Step 4: the four rotate tests, right before left, each passing test one rotate (R171, R183). -/
def group1Rotates (ops : Group1) (s : State) : State :=
  let s1 := applyIf ops.rar rotateRight s
  let s2 := applyIf (ops.rar && ops.two) rotateRight s1
  let s3 := applyIf ops.ral rotateLeft s2
  applyIf (ops.ral && ops.two) rotateLeft s3

/-- The Group 1 sequence: clears, complements, increment, rotates (R171). -/
def group1Sequence (ops : Group1) (s : State) : State :=
  let s1 := applyIf ops.cll clearLink (applyIf ops.cla clearAc s)
  let s2 := applyIf ops.cml complementLink (applyIf ops.cma complementAc s1)
  let s3 := applyIf ops.iac incrementAc s2
  group1Rotates ops s3

/-- OPR1 (R171). -/
def execOpr1 (ops : Group1) (s : State) : Answer := operate ops.control (group1Sequence ops) s

/-- NOP, word 0o7000 (R184). -/
def execNop (s : State) : Answer := operate 0o000 (fun s => s) s

/-- CLA, word 0o7200 (R172). -/
def execCla1 (s : State) : Answer := operate 0o200 clearAc s

/-- CLL, word 0o7100 (R173). -/
def execCll (s : State) : Answer := operate 0o100 clearLink s

/-- CMA, word 0o7040 (R174). -/
def execCma (s : State) : Answer := operate 0o040 complementAc s

/-- CML, word 0o7020 (R175). -/
def execCml (s : State) : Answer := operate 0o020 complementLink s

/-- RAR, word 0o7010 (R177). -/
def execRar (s : State) : Answer := operate 0o010 rotateRight s

/-- RAL, word 0o7004 (R178). -/
def execRal (s : State) : Answer := operate 0o004 rotateLeft s

/-- RTR, word 0o7012: two one-place rotates (R180). -/
def execRtr (s : State) : Answer := operate 0o012 (fun s => rotateRight (rotateRight s)) s

/-- RTL, word 0o7006: two one-place rotates (R181). -/
def execRtl (s : State) : Answer := operate 0o006 (fun s => rotateLeft (rotateLeft s)) s

/-- The 0o002 bit alone, word 0o7002: completes no rotate mask (R182). -/
def execRot2Alone (s : State) : Answer := operate 0o002 (fun s => s) s

/-- IAC, word 0o7001 (R176). -/
def execIac (s : State) : Answer := operate 0o001 incrementAc s

/-- CIA = CMA IAC, word 0o7041 (R87). -/
def execCia (s : State) : Answer := operate 0o041 (fun s => incrementAc (complementAc s)) s

/-- STL = CLL CML, word 0o7120 (R87). -/
def execStl (s : State) : Answer := operate 0o120 (fun s => complementLink (clearLink s)) s

/-- GLK = CLA RAL, word 0o7204 (R87). -/
def execGlk (s : State) : Answer := operate 0o204 (fun s => rotateLeft (clearAc s)) s

/-- STA = CLA CMA, word 0o7240 (R87). -/
def execSta (s : State) : Answer := operate 0o240 (fun s => complementAc (clearAc s)) s

end Sys2Proof.Machine
end

