-- ==== Sys2Proof/Machine/Group2.lean ====
section
/-! DEFINITION. Operate Group 2 (spec/44_operate_group2.md). -/

namespace Sys2Proof.Machine

/-- The skip test of a Group 2 word, on AC and L at entry: the conditions whose bits are present, joined by OR; the
sense bit reverses each, and alone it skips always (R201, R208, R209, R211). -/
def group2Skip (ops : Group2) (ac : Word) (l : Link) : Bool :=
  if ops.sense then
    if !ops.minus && !ops.zero && !ops.link then true
    else (ops.minus && !testMinus ac) || (ops.zero && !testZero ac) || (ops.link && !testLink l)
  else (ops.minus && testMinus ac) || (ops.zero && testZero ac) || (ops.link && testLink l)

/-- The Group 2 sequence: skip, CLA, OSR, HLT (R201). -/
def group2Sequence (ops : Group2) (s : State) : State :=
  let s1 := applyIf (group2Skip ops s.ac s.l) skipNext s
  let s2 := applyIf ops.cla clearAc s1
  let s3 := applyIf ops.osr orSwitches s2
  applyIf ops.hlt haltRun s3

/-- OPR2 (R201). -/
def execOpr2 (ops : Group2) (s : State) : Answer := operate ops.control (group2Sequence ops) s

/-- SMA, word 0o7500 (R202). -/
def execSma (s : State) : Answer := operate 0o100 (fun s => applyIf (testMinus s.ac) skipNext s) s

/-- SZA, word 0o7440 (R203). -/
def execSza (s : State) : Answer := operate 0o040 (fun s => applyIf (testZero s.ac) skipNext s) s

/-- SNL, word 0o7420 (R204). -/
def execSnl (s : State) : Answer := operate 0o020 (fun s => applyIf (testLink s.l) skipNext s) s

/-- SPA, word 0o7510 (R205). -/
def execSpa (s : State) : Answer := operate 0o110 (fun s => applyIf (!testMinus s.ac) skipNext s) s

/-- SNA, word 0o7450 (R206). -/
def execSna (s : State) : Answer := operate 0o050 (fun s => applyIf (!testZero s.ac) skipNext s) s

/-- SZL, word 0o7430 (R207). -/
def execSzl (s : State) : Answer := operate 0o030 (fun s => applyIf (!testLink s.l) skipNext s) s

/-- SKP, word 0o7410 (R208). -/
def execSkp (s : State) : Answer := operate 0o010 skipNext s

/-- CLA of Group 2, word 0o7600 (R212). -/
def execCla2 (s : State) : Answer := operate 0o200 clearAc s

/-- OSR, word 0o7404 (R213). -/
def execOsr (s : State) : Answer := operate 0o004 orSwitches s

/-- HLT, word 0o7402 (R214). -/
def execHlt (s : State) : Answer := operate 0o002 haltRun s

/-- The empty Group 2 field, word 0o7400 (R215). -/
def execNop2 (s : State) : Answer := operate 0o000 (fun s => s) s

/-- LAS = CLA OSR, word 0o7604 (R87). -/
def execLas (s : State) : Answer := operate 0o204 (fun s => orSwitches (clearAc s)) s

end Sys2Proof.Machine
end

