-- ==== Sys2Proof/Machine/Iot.lean ====
section
/-! DEFINITION. The two unimplemented classes, IOT and the third operate group, whose effect is to raise
NotImplemented in Fetch (spec/42_iot.md R161; spec/44_operate_group2.md R217; spec/40_cycle_engine.md R113). -/

namespace Sys2Proof.Machine

/-- A word with bits 7..0 `c` that raises NotImplemented: MA is latched, then the error is raised. In Execute it is an
invariant violation (R115, R162); in Defer, which no transition reaches with such a word, R100's block goes on to
Execute (notes/assumptions/8.md). -/
def unimplemented (c : BitVec 8) : State → Answer :=
  byCycle (fun s => raiseNotImplemented (latchControl c s)) deferToExecute raiseInternalInvariantViolation

/-- IOT (R161). The control field has no meaning but for the address the decoder computes from it (R83). -/
def execIot (control : BitVec 9) (s : State) : Answer := unimplemented (control.setWidth 8) s

/-- The third operate group (R217). -/
def execOpr3 (bits : BitVec 7) (s : State) : Answer := unimplemented (bits ++ 1#1) s

end Sys2Proof.Machine
end

