-- ==== Sys2Proof/Machine/Dispatch.lean ====
section
/-! DEFINITION. One arm for each instruction. -/

namespace Sys2Proof.Machine

def exec (i : Instr) (s : State) : Host.Outcome State Fault Refusal :=
  match i with
  -- spec/41_memory_reference.md
  | .and indirect page offset => Sys2Proof.Machine.execAnd indirect page offset s
  | .tad indirect page offset => Sys2Proof.Machine.execTad indirect page offset s
  | .isz indirect page offset => Sys2Proof.Machine.execIsz indirect page offset s
  | .dca indirect page offset => Sys2Proof.Machine.execDca indirect page offset s
  | .jms indirect page offset => Sys2Proof.Machine.execJms indirect page offset s
  | .jmp indirect page offset => Sys2Proof.Machine.execJmp indirect page offset s
  -- spec/42_iot.md
  | .iot control => Sys2Proof.Machine.execIot control s
  -- spec/43_operate_group1.md
  | .opr1 ops => Sys2Proof.Machine.execOpr1 ops s
  | .nop => Sys2Proof.Machine.execNop s
  | .cla1 => Sys2Proof.Machine.execCla1 s
  | .cll => Sys2Proof.Machine.execCll s
  | .cma => Sys2Proof.Machine.execCma s
  | .cml => Sys2Proof.Machine.execCml s
  | .rar => Sys2Proof.Machine.execRar s
  | .ral => Sys2Proof.Machine.execRal s
  | .rtr => Sys2Proof.Machine.execRtr s
  | .rtl => Sys2Proof.Machine.execRtl s
  | .rot2Alone => Sys2Proof.Machine.execRot2Alone s
  | .iac => Sys2Proof.Machine.execIac s
  -- spec/44_operate_group2.md
  | .opr2 ops => Sys2Proof.Machine.execOpr2 ops s
  | .sma => Sys2Proof.Machine.execSma s
  | .sza => Sys2Proof.Machine.execSza s
  | .snl => Sys2Proof.Machine.execSnl s
  | .spa => Sys2Proof.Machine.execSpa s
  | .sna => Sys2Proof.Machine.execSna s
  | .szl => Sys2Proof.Machine.execSzl s
  | .skp => Sys2Proof.Machine.execSkp s
  | .cla2 => Sys2Proof.Machine.execCla2 s
  | .osr => Sys2Proof.Machine.execOsr s
  | .hlt => Sys2Proof.Machine.execHlt s
  | .nop2 => Sys2Proof.Machine.execNop2 s
  | .opr3 bits => Sys2Proof.Machine.execOpr3 bits s
  -- spec/30_encoding.md R87
  | .cia => Sys2Proof.Machine.execCia s
  | .stl => Sys2Proof.Machine.execStl s
  | .glk => Sys2Proof.Machine.execGlk s
  | .sta => Sys2Proof.Machine.execSta s
  | .las => Sys2Proof.Machine.execLas s

end Sys2Proof.Machine
end

