-- ==== Sys2Proof/Machine/Step.lean ====
section
/-! DEFINITION. One step() of the engine: one state transition (spec/40_cycle_engine.md R100). -/

namespace Sys2Proof.Machine

/-- step(): no step from a state whose FAULT is set (R33); otherwise the cycle is counted and, in Fetch, the word read;
then the instruction in IR does its part for the cycle state; then a completed instruction is counted (R100, R110,
R111). RUN is not read (R119). -/
def step (s : State) : Host.Outcome State Fault Refusal :=
  match s.fault with
  | some kind => .fault (.alreadyFaulted kind)
  | none => endStep s.cycle (exec (decodeWord (beginStep s).ir) (beginStep s))

/-- `s` with the word `w` (the low `nbits` bits of it) at the address in PC, about to be fetched: STATE is Fetch and
FAULT is none (notes/assumptions/3.md). -/
def State.withFetchWord (s : State) (nbits w : Nat) : State :=
  ((s.writeMem s.pc (BitVec.ofNat 12 (w % 2 ^ nbits))).setCycle .fetch).setFault none

end Sys2Proof.Machine
end

