-- ==== Sys2Proof/Machine/Loader.lean ====
section
/-! DEFINITION. The BIN paper-tape loader, a byte decoder that fills memory before the first step
(spec/45_binary_loader.md). -/

namespace Sys2Proof.Machine

/-- What the next byte that is neither leader nor tagged is (R231). -/
inductive LoaderPhase where
  | originHigh | originLow | dataHigh | dataLow
  deriving DecidableEq, Repr

/-- The loader's state, which exists only during one load (R231). -/
structure LoaderState where
  /-- What the next byte is. -/
  ls : LoaderPhase
  /-- The load address. -/
  la : Word
  /-- The word being assembled. -/
  lw : Word
  /-- The last completed origin. -/
  lo : Word
  /-- The memory image being written. -/
  img : Memory
  deriving DecidableEq, Repr

/-- The initial loader state over the machine's memory (R232). -/
def LoaderState.start (m : Memory) : LoaderState where
  ls := .originHigh
  la := 0
  lw := 0
  lo := 0
  img := m

/-- (b & 0o77) << 6, the high half of an origin or a word (R234, R236). -/
def highSix (b : TapeByte) : Word := (b &&& 0o77).setWidth 12 <<< 6

/-- v | b, the whole byte into the low half (R235, R237). -/
def orLow (v : Word) (b : TapeByte) : Word := v ||| b.setWidth 12

/-- The word stored at the load address and at the next one, which becomes the load address (R237). -/
def LoaderState.deposit (t : LoaderState) (word : Word) : LoaderState :=
  { t with
    lw := word
    img := (t.img.write t.la.toNat word).write (increment t.la).toNat word
    la := increment t.la
    ls := .dataHigh }

/-- A byte taken in the present phase (R233). -/
def LoaderState.accept (t : LoaderState) (b : TapeByte) : LoaderState :=
  match t.ls with
  | .originHigh => { t with la := highSix b, ls := .originLow }
  | .originLow => { t with la := orLow t.la b, lo := orLow t.la b, ls := .dataHigh }
  | .dataHigh => { t with lw := highSix b, ls := .dataLow }
  | .dataLow => t.deposit (orLow t.lw b)

/-- One byte of the tape: a leader byte is skipped (R238), and a byte with bit 6 set is taken as the high byte of an
origin whatever the phase (R239). -/
def LoaderState.consume (t : LoaderState) (b : TapeByte) : LoaderState :=
  if b = Config.leader then t
  else if b &&& Config.originTag ≠ 0 then { t with ls := .originHigh }.accept b
  else t.accept b

/-- The bytes of a readable stream, in order (R233). -/
def LoaderState.consumeAll (t : LoaderState) : List TapeByte → LoaderState
  | [] => t
  | b :: bs => (t.consume b).consumeAll bs

/-- load: `none` is a stream that cannot be opened or read at all (R241). At the end of a readable one the image and
the last completed origin are returned and a partial word is dropped (R240, R242). -/
def load (stream : Option (List TapeByte)) (m : Memory) : Except LoaderError (Memory × Word) :=
  match stream with
  | none => .error .unreadable
  | some bytes =>
    let t := (LoaderState.start m).consumeAll bytes
    .ok (t.img, t.lo)

end Sys2Proof.Machine
end

