-- ==== Sys2Proof/Machine/Driver.lean ====
section
/-! DEFINITION. The boundary the engine offers its driver: reset, start, stop, the switches, the snapshot, the CycleEvent,
the run loops, boot and launch (spec/10_state.md R38 to R42; spec/40_cycle_engine.md R112, R120, R121;
spec/70_reset_and_hazards.md R290 to R298). -/

namespace Sys2Proof.Machine

/-- reset(): clears AC, L and MB, and nothing else (R292). -/
def driverReset (s : State) : State := ((s.setAc 0).setL 0).setMb 0

/-- start: reset, then RUN <- true (R293). The model's one operation that sets RUN (notes/assumptions/24.md). -/
def start (s : State) : State := (driverReset s).setRun true

/-- stop(): RUN <- false (R40). -/
def stop (s : State) : State := s.setRun false

/-- set_switch_register(word): SR <- word mod 4096 (R41). -/
def setSwitchRegister (word : Nat) (s : State) : State := s.setSr (BitVec.ofNat 12 word)

/-- The driver's own single-step switch (R38). -/
def setSingleStep (on : Bool) (s : State) : State := s.setSs on

/-- The value snapshot() returns (R42). -/
structure Snapshot where
  pc : Word
  ac : Word
  l : Link
  ma : Word
  mb : Word
  sr : Word
  ir : Word
  cycle : Cycle
  run : Bool
  cyc : Nat
  ins : Nat
  deriving DecidableEq, Repr

/-- snapshot(): a pure value copy of every register but memory (R42). -/
def snapshot (s : State) : Snapshot :=
  { pc := s.pc, ac := s.ac, l := s.l, ma := s.ma, mb := s.mb, sr := s.sr, ir := s.ir, cycle := s.cycle,
    run := s.run, cyc := s.cyc, ins := s.ins }

/-- load as an operation on the machine: its image becomes memory, no register is written, and memory is unchanged when
the stream is unreadable (R230, R241, R245). -/
def loadTape (stream : Option (List TapeByte)) (s : State) : State × Except LoaderError Word :=
  match load stream s.mem with
  | .ok (img, origin) => (s.setMem img, .ok origin)
  | .error e => (s, .error e)

/-- An operation of the driver between two steps that is not itself a step (R39, R40). DESIGN CHOICE: RUN is set by start
alone, as R29, R40 and R277 say; there is no operation that sets it without clearing AC, L and MB, which 90_conflicts.md C3
leaves to the driver (notes/assumptions/24.md). -/
inductive DriverOp where
  | reset
  | start
  | stop
  | setSwitchRegister (word : Nat)
  | setSingleStep (on : Bool)
  deriving DecidableEq, Repr

/-- What an operation does. -/
def DriverOp.apply : DriverOp → State → State
  | .reset, s => driverReset s
  | .start, s => Sys2Proof.Machine.start s
  | .stop, s => Sys2Proof.Machine.stop s
  | .setSwitchRegister word, s => Sys2Proof.Machine.setSwitchRegister word s
  | .setSingleStep on, s => Sys2Proof.Machine.setSingleStep on s

/-- Several operations at one step boundary, in order. -/
def applyOps : List DriverOp → State → State
  | [], s => s
  | op :: ops, s => applyOps ops (op.apply s)

/-- A move of the driver: a step, or an operation between steps (R39). -/
inductive Move where
  | step
  | driver (op : DriverOp)
  deriving DecidableEq, Repr

/-- What a move answers. -/
def Move.apply : Move → State → Answer
  | .step, s => Sys2Proof.Machine.step s
  | .driver op, s => .next (op.apply s)

/-- The CycleEvent (R112). A step without a successor state has no resulting STATE (R115; notes/assumptions/21.md). -/
structure CycleEvent where
  state : Option Cycle
  error : Option ErrorKind
  deriving DecidableEq, Repr

/-- The CycleEvent of a step; none from a state whose FAULT is set, where no step is taken (R33). -/
def stepEvent (s : State) : Option CycleEvent :=
  match step s with
  | .next t => some { state := some t.cycle, error := t.fault }
  | .fault .internalInvariantViolation => some { state := none, error := some .internalInvariantViolation }
  | .fault (.alreadyFaulted _) => none
  | .refused _ => none

/-- run_cycles: at most one step for each entry of a schedule, the driver making the entry's operations before the test;
stopping early when RUN is false or FAULT is set (R120, R39). -/
def runCyclesSchedule : List (List DriverOp) → State → Answer
  | [], s => .next s
  | ops :: rest, s =>
    let s1 := applyOps ops s
    if !s1.run || s1.fault.isSome then .next s1
    else
      match step s1 with
      | .next t => runCyclesSchedule rest t
      | .fault f => .fault f
      | .refused r => .refused r

/-- run_cycles(n), left alone by the driver (R120). -/
def runCycles (n : Nat) (s : State) : Answer := runCyclesSchedule (List.replicate n []) s

/-- Steps until STATE is Fetch or FAULT is set, at least one and at most `fuel`. -/
def stepsToBoundary : Nat → State → Answer
  | 0, s => .next s
  | fuel + 1, s =>
    match step s with
    | .next t => if t.cycle = .fetch ∨ t.fault ≠ none then .next t else stepsToBoundary fuel t
    | .fault f => .fault f
    | .refused r => .refused r

/-- run_instruction(): steps until the next instruction boundary (R120). No instruction takes more than three steps
(R116). -/
def runInstruction (s : State) : Answer := stepsToBoundary 3 s

/-- Where a run of `run()` stands. -/
inductive RunResult where
  /-- The loop test failed: the run has ended in this state (R121). -/
  | ended (s : State)
  /-- The loop test still holds at the end of the schedule. -/
  | running (s : State)
  /-- A step had no successor state: the run has ended with an error (R115, R121). -/
  | stopped (f : Fault)
  /-- A step was refused. -/
  | refused (r : Refusal)
  deriving DecidableEq, Repr

/-- A run that has ended without an error. One that ends with FAULT set is never a successful end (R121). -/
def RunResult.successful : RunResult → Bool
  | .ended s => s.fault.isNone
  | .running _ => false
  | .stopped _ => false
  | .refused _ => false

/-- The test of run(): RUN, not SS, and no FAULT (R120). -/
def runTest (s : State) : Bool := s.run && !s.ss && s.fault.isNone

/-- run(), as far as a schedule goes: before each test of the loop the driver makes the operations that the schedule has
for that step boundary (R39, R118), so a stop() or a switch set between two steps ends the run where it stands, in the
middle of an instruction too (R120, R121; notes/assumptions/20.md). -/
def runSchedule : List (List DriverOp) → State → RunResult
  | [], s => if runTest s then .running s else .ended s
  | ops :: rest, s =>
    if runTest (applyOps ops s) then
      match step (applyOps ops s) with
      | .next t => runSchedule rest t
      | .fault f => .stopped f
      | .refused r => .refused r
    else .ended (applyOps ops s)

/-- run() left alone by the driver, for at most `fuel` steps; the loop itself has no limit (R121). -/
def runFor (fuel : Nat) (s : State) : RunResult := runSchedule (List.replicate fuel []) s

/-- A run of run() from `s`, with whatever the driver does between its steps, ends in `t` (R121). -/
def RunEnds (s t : State) : Prop := ∃ schedule, runSchedule schedule s = .ended t

/-- A run of run() from `s` ends in `t` without an error (R121). -/
def RunSucceeds (s t : State) : Prop :=
  ∃ schedule, runSchedule schedule s = .ended t ∧ (runSchedule schedule s).successful = true

/-- run() from `s`, left alone by the driver, never ends: there is no step limit and no terminal state (R121). -/
def RunsForever (s : State) : Prop := ∀ fuel, ∃ t, runFor fuel s = .running t

/-- A launch state (R298): FAULT none, STATE Fetch, RUN true, AC, L and MB 0; PC, memory and SR given, and MA, IR and the
counters any values. -/
def isLaunch (s : State) : Bool :=
  s.fault.isNone && s.cycle == .fetch && s.run && s.ac == 0 && s.l == 0 && s.mb == 0 && s.mem.wf

/-- The launch state with these values: after start, with the parameters LAUNCH_PC and LAUNCH_MEM and a switch register;
MA, IR and the counters are any values, 0 after construction (R298, R6; notes/assumptions/18.md). -/
def launch (pc : Word) (m : Memory) (sr : Word) (ma ir : Word := 0) (cyc ins : Nat := 0) : State :=
  let s1 := ((State.reset.setPc pc).setMem m).setSr sr
  start ((((s1.setMa ma).setIr ir).setCyc cyc).setIns ins)

/-- The boot sequence: construct, load once, perhaps set the switches, start (R296). The launch program counter is a
parameter (R295). -/
def boot (stream : Option (List TapeByte)) (switches : Option Nat) (pc : Word := Config.launchPc) : State :=
  let s1 := (loadTape stream State.reset).1
  let s2 := match switches with
    | some w => setSwitchRegister w s1
    | none => s1
  start (s2.setPc pc)

end Sys2Proof.Machine
end

