-- ==== Sys2Proof/Safety.lean ====
section
/-! DEFINITION. What counts as a safe state and a safe run: the invariant of the transition table, the states that
construction, load and the driver's moves produce, and the states that differ only in what a program cannot see
(spec/40_cycle_engine.md R101, R115; spec/60_exceptions.md R262; spec/10_state.md R37). -/

namespace Sys2Proof.Machine

/-- The opcodes with an Execute part: AND, TAD, ISZ, DCA, JMS (R101). -/
def hasExecutePart : Opcode → Bool
  | .and | .tad | .isz | .dca | .jms => true
  | .jmp | .iot | .opr => false

/-- The opcodes that may be in Defer: the memory-reference ones (R101). -/
def hasDeferPart : Opcode → Bool
  | .and | .tad | .isz | .dca | .jms | .jmp => true
  | .iot | .opr => false

/-- The words whose Fetch raises NotImplemented: 0o6000..0o6777, and w & 0o7401 = 0o7401 (R84). -/
def isUnimplemented (w : Word) : Bool := (w &&& 0o7000 == 0o6000) || (w &&& 0o7401 == 0o7401)

/-- STATE agrees with IR as the transition table of R101 allows: Defer only for an indirect memory reference, Execute
only for an opcode with an Execute part, Break never. -/
def cycleLegal (s : State) : Bool :=
  match s.cycle with
  | .fetch => true
  | .defer => hasDeferPart (opcodeOf s.ir) && indirectBit s.ir
  | .execute => hasExecutePart (opcodeOf s.ir)
  | .brk => false

/-- FAULT is none, or NotImplemented at Fetch with an unimplemented word in IR (R113). -/
def faultLegal (s : State) : Bool :=
  match s.fault with
  | none => true
  | some .notImplemented => s.cycle == .fetch && isUnimplemented s.ir
  | some .internalInvariantViolation => false

/-- The invariant of a run: memory keeps its canonical form, and STATE and FAULT agree with IR. -/
def State.Inv (s : State) : Prop :=
  s.mem.wf = true ∧ cycleLegal s = true ∧ faultLegal s = true

/-- The states that construction, load, a launch and the driver's moves produce (R262, R296, R298). -/
inductive Reachable : State → Prop where
  /-- A machine constructed, its tape loaded and its launch PC set, before or after start. -/
  | construction (stream : Option (List TapeByte)) (pc : Word) :
      Reachable ((loadTape stream State.reset).1.setPc pc)
  /-- A launch state, with any values of what R298 leaves open. -/
  | launch {s : State} (h : isLaunch s = true) : Reachable s
  /-- One move of the driver. -/
  | move {s t : State} (m : Move) (hs : Reachable s) (ht : m.apply s = .next t) : Reachable t

/-- The same state but for what no step reads: RUN, SS and the two counters (R37, R38, R119, R272). -/
def SameButUnread (s t : State) : Prop :=
  t = { s with run := t.run, ss := t.ss, cyc := t.cyc, ins := t.ins }

/-- An instruction boundary: STATE is Fetch (R116). -/
def atBoundary (s : State) : Bool := s.cycle == .fetch

end Sys2Proof.Machine
end

