-- ==== Sys2Proof/Certificates/Slice0/Obligations.lean ====
section
/-! DEFINITION. The statements for the provers. "Log n" is notes/assumptions/n.md; "Dn" is a decision of
spec/92_eei_decisions.md, which is the spec's own choice and not the source's. -/

namespace Sys2Proof.Claims

open Sys2Proof.Machine

/-- EA(w, pcn) of R75, on the word itself. -/
def eaOf (w pcn : Word) : Word :=
  if w.getLsbD 7 then (pcn &&& 0o7600) ||| (w &&& 0o177) else w &&& 0o177

/-- 0o10 <= a <= 0o17 (R55). -/
def inAutoRange (a : Word) : Prop := 8 ≤ a.toNat ∧ a.toNat ≤ 15

/-- The five instructions with an Execute part. -/
def executed : List (Bool → Bool → Offset → Instr) := [.and, .tad, .isz, .dca, .jms]

/-- The pointer Defer makes of the cell `a`: its contents, incremented when `a` is an auto-increment cell (R105). -/
def pointerAt (s : State) (a : Word) : Word :=
  if 8 ≤ a.toNat ∧ a.toNat ≤ 15 then s.readMem a + 1 else s.readMem a

/-- The operand address of the memory-reference word `w` fetched at PC (R131). -/
def targetOf (s : State) (w : Word) : Word :=
  if w.getLsbD 8 then pointerAt s (eaOf w (s.pc + 1)) else eaOf w (s.pc + 1)

/-- What the address `b` holds once that operand address is known: only an auto-increment pointer cell has changed. -/
def cellOnce (s : State) (w b : Word) : Word :=
  if w.getLsbD 8 ∧ b = eaOf w (s.pc + 1) then pointerAt s b else s.readMem b

/-- The group a word's instruction belongs to, by its constructor; none for the other opcodes (R79). -/
def groupOf : Instr → Option Nat
  | .and _ _ _ | .tad _ _ _ | .isz _ _ _ | .dca _ _ _ | .jms _ _ _ | .jmp _ _ _ | .iot _ => none
  | .opr1 _ | .nop | .cla1 | .cll | .cma | .cml | .rar | .ral | .rtr | .rtl | .rot2Alone | .iac => some 1
  | .cia | .stl | .glk | .sta => some 1
  | .opr2 _ | .sma | .sza | .snl | .spa | .sna | .szl | .skp | .cla2 | .osr | .hlt | .nop2 | .las => some 2
  | .opr3 _ => some 3

/-- run_instruction from `s` runs the whole memory-reference instruction `w`: these values of PC, AC, L and MB, the word
`stored` at the operand address if there is one, every other cell as Defer left it, two or three steps counted and one
instruction, and nothing else changed (R130, R131, R140). -/
def CompletesWith (s : State) (w pc ac : Word) (l : Link) (mb : Word) (stored : Option Word) : Prop :=
  ∃ t, runInstruction s = .next t ∧
    (∀ b, t.readMem b = if b = targetOf s w then stored.getD (cellOnce s w b) else cellOnce s w b) ∧
    { t with mem := s.mem } =
      { s with
        pc := pc
        ac := ac
        l := l
        ma := targetOf s w
        mb := mb
        ir := w
        cyc := s.cyc + if w.getLsbD 8 then 3 else 2
        ins := s.ins + 1 }

/-- The first byte of a word on tape (R234, R236). -/
def highByte (d : Word) : TapeByte := BitVec.ofNat 8 (d.toNat / 64)

/-- The second byte of a word on tape (R235, R237). -/
def lowByte (d : Word) : TapeByte := BitVec.ofNat 8 (d.toNat % 64)

/-- An origin-tagged block: origin `a`, then the data words. -/
def tapeBlock (a : Word) (ds : List Word) : List TapeByte :=
  (0o100 ||| highByte a) :: lowByte a :: ds.flatMap (fun d => [highByte d, lowByte d])

end Sys2Proof.Claims

open Sys2Proof Sys2Proof.Machine Sys2Proof.Claims

/-! State and memory. -/

/-- R43, R290: the values at construction. RUN, IR and the counters are the spec's decision D11, SS is D29, FAULT is D7
(log 2). -/
def Obligations.ConstructionZeroesTheMachine : Prop :=
  (State.reset.pc = 0 ∧ State.reset.ac = 0 ∧ State.reset.l = 0 ∧ State.reset.ma = 0 ∧ State.reset.mb = 0 ∧
    State.reset.sr = 0 ∧ State.reset.ir = 0) ∧
  (State.reset.cycle = .fetch ∧ State.reset.run = false ∧ State.reset.cyc = 0 ∧ State.reset.ins = 0 ∧
    State.reset.fault = none ∧ State.reset.ss = false) ∧
  ∀ a, State.reset.readMem a = 0

/-- Log 1: two memories in canonical form that hold the same word at every address are the same list. -/
def Obligations.CanonicalMemoriesWithEqualCellsAreEqual : Prop :=
  ∀ m m' : Memory, m.wf = true → m'.wf = true → (∀ a, a < 4096 → m.read a = m'.read a) → m = m'

/-! Encoding. -/

/-- R70 to R87 with D1 to D3: no operand bit of a well-formed instruction is lost. -/
def Obligations.DecodeOfEncodeIsTheInstruction : Prop :=
  ∀ i : Instr, i.wellFormed = true → decodeWord (encode i) = i

/-- R70, R84 with D1 to D3: every one of the 4096 words decodes to a well-formed instruction whose word it is. -/
def Obligations.EveryWordIsTheEncodingOfItsInstruction : Prop :=
  ∀ w : Word, (decodeWord w).wellFormed = true ∧ encode (decodeWord w) = w

/-- R79: the value 0o400 chooses between Group 1 and the others, the value 0o001 between Group 2 and the third group, and
no other opcode belongs to a group. -/
def Obligations.OperateGroupsAreChosenByTwoBits : Prop :=
  ∀ w : Word, groupOf (decodeWord w) =
    if opcodeOf w = .opr then
      some (if w &&& 0o400 = 0 then 1 else if w &&& 0o001 = 0 then 2 else 3)
    else none

/-- Words written out from 95_test_vectors.md 2.1 to 2.7. -/
def Obligations.SampleWordsDecodeAsTheSpecSays : Prop :=
  decodeWord 0b000010101000 = .and false true 0o050 ∧
  decodeWord 0b001100001010 = .tad true false 0o012 ∧
  decodeWord 0b010100001000 = .isz true false 0o010 ∧
  decodeWord 0b011111111111 = .dca true true 0o177 ∧
  decodeWord 0b100110001000 = .jms true true 0o010 ∧
  decodeWord 0b101011111111 = .jmp false true 0o177 ∧
  decodeWord 0b110000011010 = .iot 0o032 ∧
  decodeWord 0b111000001010 = .rtr ∧
  decodeWord 0b111011000001 = .opr1 { cla := true, cll := true, iac := true } ∧
  decodeWord 0b111100101000 = .sna ∧
  decodeWord 0b111110000110 = .opr2 { cla := true, osr := true, hlt := true } ∧
  decodeWord 0b111110000001 = .opr3 0b1000000

/-! Memory-reference instructions, in the cycle state they are in. The next state given names every change, so everything
else is as before. -/

/-- R132: AND in Execute. -/
def Obligations.AndMasksTheAccumulator : Prop :=
  ∀ i p o (s : State), s.cycle = .execute →
    exec (.and i p o) s =
      .next { s with mb := s.readMem s.ma, ac := s.ac &&& s.readMem s.ma, cycle := .fetch }

/-- R133: TAD in Execute. -/
def Obligations.TadAddsAndTogglesTheLinkOnCarry : Prop :=
  ∀ i p o (s : State), s.cycle = .execute →
    exec (.tad i p o) s =
      .next { s with
        mb := s.readMem s.ma
        ac := BitVec.ofNat 12 ((s.ac.toNat + (s.readMem s.ma).toNat) % 4096)
        l := if 4096 ≤ s.ac.toNat + (s.readMem s.ma).toNat then 1 - s.l else s.l
        cycle := .fetch }

/-- R135: ISZ in Execute. -/
def Obligations.IszIncrementsTheCellAndSkipsAtZero : Prop :=
  ∀ i p o (s : State), s.cycle = .execute →
    let v : Word := BitVec.ofNat 12 (((s.readMem s.ma).toNat + 1) % 4096)
    ∃ t, exec (.isz i p o) s = .next t ∧
      t.readMem s.ma = v ∧ (∀ b, b ≠ s.ma → t.readMem b = s.readMem b) ∧
      { t with mem := s.mem } =
        { s with mb := v, pc := if v = 0 then s.pc + 1 else s.pc, cycle := .fetch }

/-- R136: DCA in Execute. -/
def Obligations.DcaStoresAndClearsTheAccumulator : Prop :=
  ∀ i p o (s : State), s.cycle = .execute →
    ∃ t, exec (.dca i p o) s = .next t ∧
      t.readMem s.ma = s.ac ∧ (∀ b, b ≠ s.ma → t.readMem b = s.readMem b) ∧
      { t with mem := s.mem } = { s with mb := s.readMem s.ma, ac := 0, cycle := .fetch }

/-- R137: JMS in Execute. -/
def Obligations.JmsSavesTheReturnAddressAndJumps : Prop :=
  ∀ i p o (s : State), s.cycle = .execute →
    ∃ t, exec (.jms i p o) s = .next t ∧
      t.readMem s.ma = s.pc ∧ (∀ b, b ≠ s.ma → t.readMem b = s.readMem b) ∧
      { t with mem := s.mem } = { s with mb := s.readMem s.ma, pc := s.ma + 1, cycle := .fetch }

/-- R103 (3) and (5) with R75: AND, TAD, ISZ, DCA and JMS in Fetch latch the effective address and go on. -/
def Obligations.MemoryReferenceFetchLatchesTheAddress : Prop :=
  ∀ f ∈ executed, ∀ i p o (s : State), s.cycle = .fetch →
    exec (f i p o) s =
      .next { s with
        ma := eaOf (encode (f i p o)) s.pc
        cycle := if i then .defer else .execute }

/-- R105, R106, R107: AND, TAD, ISZ, DCA and JMS in Defer. MA <- MB is the spec's decision D6. -/
def Obligations.MemoryReferenceDeferFollowsThePointer : Prop :=
  ∀ f ∈ executed, ∀ i p o (s : State), s.cycle = .defer →
    ∃ t, exec (f i p o) s = .next t ∧
      (∀ b, t.readMem b = if b = s.ma then pointerAt s b else s.readMem b) ∧
      { t with mem := s.mem } =
        { s with mb := pointerAt s s.ma, ma := pointerAt s s.ma, cycle := .execute }

/-- R104: a direct JMP completes in Fetch. -/
def Obligations.DirectJmpCompletesInFetch : Prop :=
  ∀ p o (s : State), s.cycle = .fetch →
    exec (.jmp false p o) s =
      .next { s with
        ma := eaOf (encode (.jmp false p o)) s.pc
        pc := eaOf (encode (.jmp false p o)) s.pc }

/-- R107, R138: an indirect JMP goes to Defer, and there jumps to the pointer. MA <- MB is the spec's decision D6. In
Execute, which no transition reaches, JMP is an invariant violation (R115, D8). -/
def Obligations.IndirectJmpJumpsToThePointer : Prop :=
  (∀ p o (s : State), s.cycle = .fetch →
    exec (.jmp true p o) s =
      .next { s with ma := eaOf (encode (.jmp true p o)) s.pc, cycle := .defer }) ∧
  (∀ i p o (s : State), s.cycle = .defer →
    ∃ t, exec (.jmp i p o) s = .next t ∧
      (∀ b, t.readMem b = if b = s.ma then pointerAt s b else s.readMem b) ∧
      { t with mem := s.mem } =
        { s with
          mb := pointerAt s s.ma
          ma := pointerAt s s.ma
          pc := pointerAt s s.ma
          cycle := .fetch }) ∧
  (∀ i p o (s : State), s.cycle = .execute →
    exec (.jmp i p o) s = .fault .internalInvariantViolation)

/-- R105: the auto-increment of every Defer step, whatever the instruction, and no other memory change. That Defer of an
IOT or OPR word, which no transition reaches, has a next state is the model's reading (log 8). -/
def Obligations.DeferIncrementsOnlyAutoIncrementCells : Prop :=
  ∀ s : State, s.fault = none → s.cycle = .defer →
    ∃ t, step s = .next t ∧
      (inAutoRange s.ma →
        t.mb = BitVec.ofNat 12 (((s.readMem s.ma).toNat + 1) % 4096) ∧ t.readMem s.ma = t.mb) ∧
      (¬ inAutoRange s.ma → t.mb = s.readMem s.ma ∧ t.readMem s.ma = s.readMem s.ma) ∧
      ∀ b, b ≠ s.ma → t.readMem b = s.readMem b

/-! The unimplemented classes. The recorded FAULT and what the step keeps are the spec's decision D7 (log 4). -/

/-- R161, R217, R113: IOT and the third group in Fetch raise NotImplemented and change nothing but MA. -/
def Obligations.IotAndThirdGroupRaiseNotImplemented : Prop :=
  (∀ c (s : State), s.cycle = .fetch →
    exec (.iot c) s =
      .next { s with ma := eaOf (encode (.iot c)) s.pc, fault := some .notImplemented }) ∧
  (∀ b (s : State), s.cycle = .fetch →
    exec (.opr3 b) s =
      .next { s with ma := eaOf (encode (.opr3 b)) s.pc, fault := some .notImplemented })

/-- R113: the whole state after a step that raises NotImplemented. The cycle it counts is the spec's decision D10 (log 15). -/
def Obligations.NotImplementedStepKeepsTheFetchWrites : Prop :=
  ∀ s : State, s.fault = none → s.cycle = .fetch →
    let w := s.readMem s.pc
    (opcodeOf w = .iot ∨ w &&& 0o7401 = 0o7401) →
    step s =
      .next { s with
        mb := w
        pc := s.pc + 1
        ir := w
        ma := eaOf w (s.pc + 1)
        cyc := s.cyc + 1
        fault := some .notImplemented }

/-- R84, R260: a step records NotImplemented exactly in Fetch of 0o6000..0o6777 or of a word with w & 0o7401 = 0o7401,
and no step records another error. The record in FAULT is the spec's decision D7 (log 4); that a step which raises
InternalInvariantViolation has no next state to record it in is D8 (log 5). -/
def Obligations.OnlyUnimplementedWordsRaiseNotImplemented : Prop :=
  ∀ s t : State, step s = .next t →
    t.fault =
      if s.cycle = .fetch ∧
          (s.readMem s.pc &&& 0o7000 = 0o6000 ∨ s.readMem s.pc &&& 0o7401 = 0o7401) then
        some .notImplemented
      else none

/-- R33, R113 with D7: no step is taken from a state whose FAULT is set. -/
def Obligations.FaultedStateTakesNoStep : Prop :=
  ∀ (s : State) (k : ErrorKind), s.fault = some k → step s = .fault (.alreadyFaulted k)

/-- R115 with D8 (log 5), R260: a step from a state without FAULT has no next state exactly in Execute of a JMP, IOT or OPR word,
where it raises InternalInvariantViolation; every other step answers a next state. That Fetch of an IOT or third-group word
does is the spec's decision D7 (R113, log 4), that Defer of an IOT or OPR word does the model's reading (log 8), that Break
does the spec's decision D26 (log 23). -/
def Obligations.StepsFailOnlyOnExecuteOfJmpIotOpr : Prop :=
  ∀ s : State, s.fault = none →
    if s.cycle = .execute ∧ (opcodeOf s.ir = .jmp ∨ opcodeOf s.ir = .iot ∨ opcodeOf s.ir = .opr) then
      step s = .fault .internalInvariantViolation
    else ∃ t, step s = .next t

/-! Operate Group 1. Each runs in Fetch, after the program counter has advanced. -/

/-- R172 to R176, R184: NOP, CLA, CLL, CMA, CML, IAC alone, and the combinations those rules name: CLA CMA (STA), CLA
IAC, CLL CML (STL), CMA IAC (CIA) and IAC RAL. -/
def Obligations.Group1ClearsComplementsAndIncrements : Prop :=
  ∀ s : State, s.cycle = .fetch →
    (exec .nop s = .next { s with ma := eaOf (encode .nop) s.pc } ∧
      exec .cla1 s = .next { s with ma := eaOf (encode .cla1) s.pc, ac := 0 } ∧
      exec .cll s = .next { s with ma := eaOf (encode .cll) s.pc, l := 0 } ∧
      exec .cma s =
        .next { s with ma := eaOf (encode .cma) s.pc, ac := BitVec.ofNat 12 (4095 - s.ac.toNat) } ∧
      exec .cml s = .next { s with ma := eaOf (encode .cml) s.pc, l := 1 - s.l } ∧
      exec .iac s =
        .next { s with ma := eaOf (encode .iac) s.pc, ac := BitVec.ofNat 12 ((s.ac.toNat + 1) % 4096) }) ∧
    exec .sta s = .next { s with ma := eaOf (encode .sta) s.pc, ac := 0o7777 } ∧
    exec (.opr1 { cla := true, iac := true }) s = .next { s with ma := eaOf 0o7201 s.pc, ac := 1 } ∧
    exec .stl s = .next { s with ma := eaOf (encode .stl) s.pc, l := 1 } ∧
    exec .cia s =
      .next { s with ma := eaOf (encode .cia) s.pc, ac := BitVec.ofNat 12 ((4096 - s.ac.toNat) % 4096) } ∧
    let v := (s.ac.toNat + 1) % 4096
    exec (.opr1 { iac := true, ral := true }) s =
      .next { s with
        ma := eaOf 0o7005 s.pc
        l := BitVec.ofNat 1 (v / 2048)
        ac := BitVec.ofNat 12 (v * 2 % 4096 + s.l.toNat) }

/-- R177, R178, R180, R181: the rotates alone, as arithmetic on L and AC, and CLA RAL (GLK), which copies the link. -/
def Obligations.Group1RotatesLinkAndAccumulator : Prop :=
  ∀ s : State, s.cycle = .fetch →
    exec .rar s =
      .next { s with
        ma := eaOf (encode .rar) s.pc
        l := BitVec.ofNat 1 (s.ac.toNat % 2)
        ac := BitVec.ofNat 12 (s.l.toNat * 2048 + s.ac.toNat / 2) } ∧
    exec .ral s =
      .next { s with
        ma := eaOf (encode .ral) s.pc
        l := BitVec.ofNat 1 (s.ac.toNat / 2048)
        ac := BitVec.ofNat 12 (s.ac.toNat * 2 % 4096 + s.l.toNat) } ∧
    exec .rtr s =
      .next { s with
        ma := eaOf (encode .rtr) s.pc
        l := BitVec.ofNat 1 (s.ac.toNat / 2 % 2)
        ac := BitVec.ofNat 12 (s.ac.toNat % 2 * 2048 + s.l.toNat * 1024 + s.ac.toNat / 4) } ∧
    exec .rtl s =
      .next { s with
        ma := eaOf (encode .rtl) s.pc
        l := BitVec.ofNat 1 (s.ac.toNat / 1024 % 2)
        ac := BitVec.ofNat 12 ((s.ac.toNat * 4 + s.l.toNat * 2) % 4096 + s.ac.toNat / 2048) } ∧
    exec .glk s =
      .next { s with ma := eaOf (encode .glk) s.pc, ac := BitVec.ofNat 12 s.l.toNat, l := 0 }

/-- R182 (D4), R215 (D27): the 0o002 bit alone and the empty Group 2 field do nothing. -/
def Obligations.WordsWithoutAnEffectOnlyLatchTheAddress : Prop :=
  ∀ s : State, s.cycle = .fetch →
    exec .rot2Alone s = .next { s with ma := eaOf (encode .rot2Alone) s.pc } ∧
    exec .nop2 s = .next { s with ma := eaOf (encode .nop2) s.pc }

/-- R171, R183: every Group 1 word. The rotate masks and their order are the spec's decisions D4 and D5. -/
def Obligations.Group1SequenceForEveryCombination : Prop :=
  ∀ (g : Group1) (s : State), s.cycle = .fetch →
    let a0 := if g.cla then 0 else s.ac.toNat
    let a1 := if g.cma then 4095 - a0 else a0
    let a2 := if g.iac then (a1 + 1) % 4096 else a1
    let l0 := if g.cll then 0 else s.l.toNat
    let l1 := if g.cml then 1 - l0 else l0
    let right := (if g.rar then 1 else 0) + if g.rar && g.two then 1 else 0
    let left := (if g.ral then 1 else 0) + if g.ral && g.two then 1 else 0
    let x := ((BitVec.ofNat 13 (l1 * 4096 + a2)).rotateRight right).rotateLeft left
    exec (.opr1 g) s =
      .next { s with
        ma := eaOf (encode (.opr1 g)) s.pc
        l := BitVec.ofNat 1 (x.toNat / 4096)
        ac := BitVec.ofNat 12 (x.toNat % 4096) }

/-! Operate Group 2. -/

/-- R202 to R208: the skip tests alone, SZA CLA, which tests the old AC, SKP CLA and SKP HLT. -/
def Obligations.Group2SkipTests : Prop :=
  ∀ s : State, s.cycle = .fetch →
    exec .sma s =
      .next { s with
        ma := eaOf (encode .sma) s.pc, pc := if 2048 ≤ s.ac.toNat then s.pc + 1 else s.pc } ∧
    exec .sza s =
      .next { s with ma := eaOf (encode .sza) s.pc, pc := if s.ac = 0 then s.pc + 1 else s.pc } ∧
    exec .snl s =
      .next { s with ma := eaOf (encode .snl) s.pc, pc := if s.l ≠ 0 then s.pc + 1 else s.pc } ∧
    exec .spa s =
      .next { s with
        ma := eaOf (encode .spa) s.pc, pc := if s.ac.toNat < 2048 then s.pc + 1 else s.pc } ∧
    exec .sna s =
      .next { s with ma := eaOf (encode .sna) s.pc, pc := if s.ac ≠ 0 then s.pc + 1 else s.pc } ∧
    exec .szl s =
      .next { s with ma := eaOf (encode .szl) s.pc, pc := if s.l = 0 then s.pc + 1 else s.pc } ∧
    exec .skp s = .next { s with ma := eaOf (encode .skp) s.pc, pc := s.pc + 1 } ∧
    exec (.opr2 { zero := true, cla := true }) s =
      .next { s with ma := eaOf 0o7640 s.pc, pc := if s.ac = 0 then s.pc + 1 else s.pc, ac := 0 } ∧
    exec (.opr2 { sense := true, cla := true }) s =
      .next { s with ma := eaOf 0o7610 s.pc, pc := s.pc + 1, ac := 0 } ∧
    exec (.opr2 { sense := true, hlt := true }) s =
      .next { s with ma := eaOf 0o7412 s.pc, pc := s.pc + 1, run := false }

/-- R212, R213, R214: CLA, OSR, HLT alone, and CLA OSR (LAS). -/
def Obligations.Group2ClearsReadsSwitchesAndHalts : Prop :=
  ∀ s : State, s.cycle = .fetch →
    exec .cla2 s = .next { s with ma := eaOf (encode .cla2) s.pc, ac := 0 } ∧
    exec .osr s = .next { s with ma := eaOf (encode .osr) s.pc, ac := s.ac ||| s.sr } ∧
    exec .hlt s = .next { s with ma := eaOf (encode .hlt) s.pc, run := false } ∧
    exec .las s = .next { s with ma := eaOf (encode .las) s.pc, ac := s.sr }

/-- R201, R209, R211: every Group 2 word. The skip test reads AC and L at entry, its conditions are joined by OR in both
senses and skip once; CLA, OSR, HLT follow. That absent conditions do not count is the spec's decision D27. -/
def Obligations.Group2SequenceForEveryCombination : Prop :=
  ∀ (g : Group2) (s : State), s.cycle = .fetch →
    let skip : Prop :=
      if g.sense = true then
        (g.minus = false ∧ g.zero = false ∧ g.link = false) ∨
          (g.minus = true ∧ s.ac.toNat < 2048) ∨ (g.zero = true ∧ s.ac ≠ 0) ∨ (g.link = true ∧ s.l = 0)
      else (g.minus = true ∧ 2048 ≤ s.ac.toNat) ∨ (g.zero = true ∧ s.ac = 0) ∨ (g.link = true ∧ s.l ≠ 0)
    let a : Word := if g.cla then 0 else s.ac
    ∃ t, exec (.opr2 g) s = .next t ∧
      (skip → t.pc = s.pc + 1) ∧ (¬ skip → t.pc = s.pc) ∧
      { t with pc := s.pc } =
        { s with
          ma := eaOf (encode (.opr2 g)) s.pc
          ac := if g.osr then a ||| s.sr else a
          run := s.run && !g.hlt }

/-- R82, R87: a word with a name of its own does what its group's sequence does with the same bits, in every state (log 6). -/
def Obligations.NamedWordsAreTheirGroupWords : Prop :=
  (∀ (g : Group1) (s : State), exec (decodeGroup1 g) s = exec (.opr1 g) s) ∧
  ∀ (g : Group2) (s : State), exec (decodeGroup2 g) s = exec (.opr2 g) s

/-! The engine. -/

/-- R100, R102, R110, R111: in Fetch, the instruction at the program counter runs after the word is read and PC has
advanced; in the other cycle states, the instruction in IR runs; around it CYC counts every step and INS a return to Fetch. -/
def Obligations.StepRunsTheDecodedInstruction : Prop :=
  ∀ (i : Instr) (s : State), i.wellFormed = true → s.fault = none →
    (s.cycle = .fetch → s.readMem s.pc = encode i →
      step s =
        exec i { s with cyc := s.cyc + 1, mb := encode i, pc := s.pc + 1, ir := encode i }) ∧
    (s.cycle ≠ .fetch → s.ir = encode i →
      (∀ u, exec i { s with cyc := s.cyc + 1 } = .next u →
        step s = .next { u with ins := u.ins + if u.cycle = .fetch then 1 else 0 }) ∧
      ∀ f, exec i { s with cyc := s.cyc + 1 } = .fault f → step s = .fault f)

/-- R102, R75: every Fetch step answers a next state with the fetched word in MB and IR and its effective address, taken
with the advanced PC, in MA. PC has advanced by one, but for a direct JMP, which goes to MA (R104), and an OPR word, which
may skip once more (R210). That the Fetch of an IOT or third-group word has a next state, which keeps these writes, is the
spec's decision D7 (R113, log 4). -/
def Obligations.EveryFetchMakesTheFetchWrites : Prop :=
  ∀ s : State, s.fault = none → s.cycle = .fetch →
    let w := s.readMem s.pc
    ∃ t, step s = .next t ∧ t.mb = w ∧ t.ir = w ∧ t.ma = eaOf w (s.pc + 1) ∧
      if opcodeOf w = .jmp ∧ w.getLsbD 8 = false then t.pc = t.ma
      else if opcodeOf w = .opr then t.pc = s.pc + 1 ∨ t.pc = s.pc + 2
      else t.pc = s.pc + 1

/-- R101: the transition table of STATE, with the instruction counter. Its rows for Defer and Execute are those of the
memory-reference opcodes; no transition enters Break. That NotImplemented is recorded in FAULT of a next state is the spec's
decision D7 (R113, log 4), that Execute of JMP, IOT or OPR has no next state its D8 (R115, log 5), and the step from Break
its D26 (log 23). -/
def Obligations.TransitionTable : Prop :=
  ∀ s : State, s.fault = none →
    (s.cycle = .fetch →
      let w := s.readMem s.pc
      ∃ t, step s = .next t ∧ t.ins = s.ins ∧
        t.cycle =
          (match opcodeOf w with
          | .iot | .opr => .fetch
          | .jmp => if w.getLsbD 8 then .defer else .fetch
          | .and | .tad | .isz | .dca | .jms => if w.getLsbD 8 then .defer else .execute) ∧
        (t.fault = some .notImplemented ↔
          opcodeOf w = .iot ∨ opcodeOf w = .opr ∧ w.getLsbD 8 = true ∧ w.getLsbD 0 = true)) ∧
    (s.cycle = .defer → opcodeOf s.ir = .jmp →
      ∃ t, step s = .next t ∧ t.cycle = .fetch ∧ t.ins = s.ins + 1) ∧
    (s.cycle = .defer → hasExecutePart (opcodeOf s.ir) = true →
      ∃ t, step s = .next t ∧ t.cycle = .execute ∧ t.ins = s.ins) ∧
    (s.cycle = .execute → hasExecutePart (opcodeOf s.ir) = true →
      ∃ t, step s = .next t ∧ t.cycle = .fetch ∧ t.ins = s.ins + 1) ∧
    (s.cycle = .execute → hasExecutePart (opcodeOf s.ir) = false →
      step s = .fault .internalInvariantViolation) ∧
    (s.cycle = .brk → ∃ t, step s = .next t ∧ t.cycle = .fetch ∧ t.ins = s.ins + 1) ∧
    ∀ t, step s = .next t → t.cycle ≠ .brk

/-- R109: Break is a passthrough to Fetch that changes only the counters, and no step enters it. -/
def Obligations.BreakPassesThroughToFetch : Prop :=
  (∀ s : State, s.fault = none → s.cycle = .brk →
    step s = .next { s with cycle := .fetch, cyc := s.cyc + 1, ins := s.ins + 1 }) ∧
  ∀ s t : State, step s = .next t → t.cycle ≠ .brk

/-- R110: every step counts one cycle, an erroring one too (D10, log 15). -/
def Obligations.EveryStepCountsOneCycle : Prop :=
  ∀ s t : State, step s = .next t → t.cyc = s.cyc + 1

/-- R111: INS counts exactly the steps that land on Fetch from another state. -/
def Obligations.InstructionCounterCountsReturnsToFetch : Prop :=
  ∀ s t : State, step s = .next t →
    t.ins = if t.cycle = .fetch ∧ s.cycle ≠ .fetch then s.ins + 1 else s.ins

/-- R119 (D13), R38 (D29), R272: what a step does depends on neither RUN, SS nor the counters, and SS is never written. -/
def Obligations.StepReadsNeitherRunNorSwitchNorCounters : Prop :=
  ∀ s s' : State, SameButUnread s s' →
    match step s, step s' with
    | .next t, .next t' => SameButUnread t t' ∧ t.ss = s.ss ∧ t'.ss = s'.ss
    | .fault f, .fault f' => f = f'
    | _, _ => False

/-- R29, R214: a step never sets RUN, and clears it exactly by fetching a Group 2 word with the HLT bit (its value is the
spec's decision D3). -/
def Obligations.OnlyHltClearsTheRunFlag : Prop :=
  ∀ s t : State, step s = .next t →
    t.run = (s.run && !(s.cycle == .fetch && s.readMem s.pc &&& 0o7403 == 0o7402))

/-- R28: no step writes SR, and one that is not the Fetch of a Group 2 word with the OSR bit (its value is the spec's
decision D3) does not depend on it. -/
def Obligations.OnlyOsrReadsTheSwitchRegister : Prop :=
  (∀ s t : State, step s = .next t → t.sr = s.sr) ∧
  ∀ (s : State) (x : Word), ¬ (s.cycle = .fetch ∧ s.readMem s.pc &&& 0o7405 = 0o7404) →
    match step s, step { s with sr := x } with
    | .next t, .next t' => t' = { t with sr := x }
    | .fault f, .fault f' => f = f'
    | _, _ => False

/-- R36: which steps change AC, L, PC and RUN. -/
def Obligations.RegisterWritersAreThoseOfTheAccessMatrix : Prop :=
  ∀ s t : State, step s = .next t →
    (t.ac ≠ s.ac →
      s.cycle = .execute ∧ (opcodeOf s.ir = .and ∨ opcodeOf s.ir = .tad ∨ opcodeOf s.ir = .dca) ∨
        s.cycle = .fetch ∧ opcodeOf (s.readMem s.pc) = .opr) ∧
    (t.l ≠ s.l →
      s.cycle = .execute ∧ opcodeOf s.ir = .tad ∨
        s.cycle = .fetch ∧ groupOf (decodeWord (s.readMem s.pc)) = some 1) ∧
    (t.pc ≠ s.pc →
      s.cycle = .fetch ∨ s.cycle = .defer ∧ opcodeOf s.ir = .jmp ∨
        s.cycle = .execute ∧ (opcodeOf s.ir = .isz ∨ opcodeOf s.ir = .jms)) ∧
    (t.run ≠ s.run → s.cycle = .fetch ∧ groupOf (decodeWord (s.readMem s.pc)) = some 2)

/-- R56: which steps write memory, and where. -/
def Obligations.OnlyDeferAndExecuteWriteMemoryAtMa : Prop :=
  ∀ (s t : State) (b : Word), step s = .next t → t.readMem b ≠ s.readMem b →
    b = s.ma ∧
      (s.cycle = .defer ∧ inAutoRange s.ma ∨
        s.cycle = .execute ∧ (opcodeOf s.ir = .isz ∨ opcodeOf s.ir = .dca ∨ opcodeOf s.ir = .jms))

/-- R56: which cell a step reads. Memory that agrees there gives the same step but for memory. -/
def Obligations.StepReadsOneCellOfMemory : Prop :=
  ∀ (s : State) (m : Memory),
    (match s.cycle with
      | .fetch => m.read s.pc.toNat = s.readMem s.pc
      | .defer | .execute => m.read s.ma.toNat = s.readMem s.ma
      | .brk => True) →
    match step s, step { s with mem := m } with
    | .next t, .next t' => { t' with mem := t.mem } = t
    | .fault f, .fault f' => f = f'
    | _, _ => False

/-! Invariants. -/

/-- The invariant holds at construction and in every launch state. R298: the launch states are those of `launch`, with any
program counter, memory, switch register, MA, IR and counters, and boot leads to one (log 18). -/
def Obligations.InvariantHoldsAtConstruction : Prop :=
  State.reset.Inv ∧
  (∀ s, isLaunch s = true → s.Inv) ∧
  (∀ pc m sr ma ir cyc ins, m.wf = true → isLaunch (launch pc m sr ma ir cyc ins) = true) ∧
  (∀ s, isLaunch s = true → s = { launch s.pc s.mem s.sr s.ma s.ir s.cyc s.ins with ss := s.ss }) ∧
  ∀ tape switches pc, isLaunch (boot tape switches pc) = true

/-- R101, R113, R115: every step keeps the canonical form of memory, which is the model's (log 1), and the agreement of STATE
and FAULT with IR. The record of NotImplemented in FAULT is the spec's decision D7 (log 4). -/
def Obligations.EveryStepKeepsTheInvariant : Prop :=
  ∀ s t : State, s.Inv → step s = .next t → t.Inv

/-- R262: no state that construction, load, a launch and the driver's moves produce raises InternalInvariantViolation. A step
from one without FAULT answers a next state. For Fetch of an IOT or third-group word that next state, and the FAULT it
records, are the spec's decision D7 (R113, log 4). The launch PC is its D14 (log 18), the canonical memory in the invariant
the model's form (log 1), and that the driver sets RUN by start alone the model's choice (log 24). -/
def Obligations.NoReachableStateViolatesTheTransitionTable : Prop :=
  ∀ s : State, Reachable s →
    s.Inv ∧ step s ≠ .fault .internalInvariantViolation ∧ (s.fault = none → ∃ t, step s = .next t)

/-! Whole instructions. -/

/-- R130 to R137, R140: AND, TAD, ISZ, DCA and JMS from Fetch to the next boundary, direct and indirect. MA after Defer is
the spec's decision D6. -/
def Obligations.MemoryReferenceInstructionsComplete : Prop :=
  ∀ s : State, s.fault = none → s.cycle = .fetch →
    let w := s.readMem s.pc
    let a := targetOf s w
    let v := cellOnce s w a
    (opcodeOf w = .and → CompletesWith s w (s.pc + 1) (s.ac &&& v) s.l v none) ∧
    (opcodeOf w = .tad →
      CompletesWith s w (s.pc + 1) (s.ac + v) (if 4096 ≤ s.ac.toNat + v.toNat then 1 - s.l else s.l) v none) ∧
    (opcodeOf w = .isz →
      CompletesWith s w (if v + 1 = 0 then s.pc + 2 else s.pc + 1) s.ac s.l (v + 1) (some (v + 1))) ∧
    (opcodeOf w = .dca → CompletesWith s w (s.pc + 1) 0 s.l v (some s.ac)) ∧
    (opcodeOf w = .jms → CompletesWith s w (a + 1) s.ac s.l v (some (s.pc + 1)))

/-- R138, R140: JMP from Fetch to the next boundary, direct in one step and uncounted, indirect in two and counted. MA after
Defer is the spec's decision D6. -/
def Obligations.JmpInstructionCompletes : Prop :=
  ∀ s : State, s.fault = none → s.cycle = .fetch →
    let w := s.readMem s.pc
    let a := targetOf s w
    opcodeOf w = .jmp →
      ∃ t, runInstruction s = .next t ∧ (∀ b, t.readMem b = cellOnce s w b) ∧
        { t with mem := s.mem } =
          { s with
            pc := a
            ma := a
            mb := if w.getLsbD 8 then a else w
            ir := w
            cyc := s.cyc + if w.getLsbD 8 then 2 else 1
            ins := s.ins + if w.getLsbD 8 then 1 else 0 }

/-- R116, R120, R140: run_instruction from a boundary ends at a boundary after the number of steps of the table. That the
erroring Fetch of an IOT or third-group word has a next state is the spec's decision D7 (R113, log 4), that it counts a
cycle its D10 (R110, log 15), and when run_instruction stops its D30 (log 17). -/
def Obligations.EveryInstructionReachesABoundary : Prop :=
  ∀ s : State, s.fault = none → s.cycle = .fetch →
    let w := s.readMem s.pc
    ∃ t, runInstruction s = .next t ∧ atBoundary t = true ∧
      t.cyc = s.cyc +
        (match opcodeOf w with
        | .iot | .opr => 1
        | .jmp => if w.getLsbD 8 then 2 else 1
        | .and | .tad | .isz | .dca | .jms => if w.getLsbD 8 then 3 else 2) ∧
      t.ins = s.ins +
        (match opcodeOf w with
        | .iot | .opr => 0
        | .jmp => if w.getLsbD 8 then 1 else 0
        | .and | .tad | .isz | .dca | .jms => 1)

/-- R137, 95_test_vectors.md S5: JMS at A stores the return address and goes on at A + 1; a later indirect JMP through A,
A outside the auto-increment cells and unchanged, returns. -/
def Obligations.IndirectJmpReturnsFromJms : Prop :=
  ∀ s : State, s.fault = none → s.cycle = .execute → opcodeOf s.ir = .jms → ¬ inAutoRange s.ma →
    ∃ t, step s = .next t ∧ t.pc = s.ma + 1 ∧ t.readMem s.ma = s.pc ∧
      ∀ u : State, u.fault = none → u.cycle = .fetch → u.readMem s.ma = t.readMem s.ma →
        opcodeOf (u.readMem u.pc) = .jmp → (u.readMem u.pc).getLsbD 8 = true →
        eaOf (u.readMem u.pc) (u.pc + 1) = s.ma →
        ∃ v, runInstruction u = .next v ∧ v.pc = s.pc ∧ v.cycle = .fetch

/-! The driver. -/

/-- R293: start clears AC, L and MB, sets RUN, and changes nothing else. What it leaves alone is the spec's decision D12
(log 14). -/
def Obligations.StartClearsThreeRegistersAndSetsRun : Prop :=
  ∀ s : State, start s = { s with ac := 0, l := 0, mb := 0, run := true }

/-- R41: set_switch_register writes SR modulo 4096 and nothing else. -/
def Obligations.SetSwitchRegisterWritesOnlySr : Prop :=
  ∀ (word : Nat) (s : State),
    (setSwitchRegister word s).sr.toNat = word % 4096 ∧ { setSwitchRegister word s with sr := s.sr } = s

/-- R40, R41, R292, R293, R38: what each operation of the driver writes, and that none writes PC, MA, IR, STATE, the
counters, memory or FAULT. What reset leaves alone is the spec's decision D12 (log 14), the switch its D29 (log 9); that no
other operation sets RUN is the model's choice (log 24). -/
def Obligations.DriverMovesLeaveTheInstructionAlone : Prop :=
  ∀ s : State,
    (DriverOp.reset.apply s = { s with ac := 0, l := 0, mb := 0 } ∧
      DriverOp.start.apply s = { s with ac := 0, l := 0, mb := 0, run := true } ∧
      DriverOp.stop.apply s = { s with run := false } ∧
      (∀ w, (DriverOp.setSwitchRegister w).apply s = { s with sr := BitVec.ofNat 12 (w % 4096) }) ∧
      ∀ on, (DriverOp.setSingleStep on).apply s = { s with ss := on }) ∧
    ∀ m : Move, m ≠ .step →
      ∃ t, m.apply s = .next t ∧
        { t with ac := s.ac, l := s.l, mb := s.mb, sr := s.sr, run := s.run, ss := s.ss } = s

/-- R294 (D28): in Defer and Execute a step does not depend on MB, so a reset there clears nothing the instruction reads but
AC and L. -/
def Obligations.ClearingMbMidInstructionChangesNothing : Prop :=
  ∀ (s : State) (x : Word), s.cycle = .defer ∨ s.cycle = .execute → step { s with mb := x } = step s

/-- R120, R121 (D30, log 17): run() takes no step when RUN is false, SS is set or FAULT is set. With any operations of the
driver between its steps, a run ends only in such a state; a stop(), or the switch set, at any step boundary ends a run
where it stands, in the middle of an instruction too; and a run that ends with FAULT set is no success. The schedule of
operations is the model's form (log 20), that none but start sets RUN its choice (log 24). -/
def Obligations.RunEndsOnlyWhenItsTestFails : Prop :=
  (∀ (s : State) (fuel : Nat), s.run = false ∨ s.ss = true ∨ s.fault ≠ none → runFor fuel s = .ended s) ∧
  (∀ s t : State, RunEnds s t → t.run = false ∨ t.ss = true ∨ t.fault ≠ none) ∧
  (∀ schedule s t, runSchedule schedule s = .running t →
    runSchedule (schedule ++ [[.stop]]) s = .ended { t with run := false } ∧
    runSchedule (schedule ++ [[.setSingleStep true]]) s = .ended { t with ss := true }) ∧
  ∀ s t : State, RunSucceeds s t → t.fault = none ∧ (t.run = false ∨ t.ss = true)

/-! The loader. -/

/-- R238: a leader byte changes no loader state. -/
def Obligations.LeaderBytesAreSkipped : Prop :=
  ∀ t : LoaderState, t.consume 0o200 = t

/-- R234, R236: the high byte of an origin and of a word. That a tagged byte in OriginHigh is itself consumed as the high byte
is the spec's decision D15 (R233, log 13). -/
def Obligations.HighBytesSupplyBitsElevenToSix : Prop :=
  ∀ (t : LoaderState) (b : TapeByte), b ≠ 0o200 →
    (t.ls = .originHigh →
      t.consume b = { t with la := BitVec.ofNat 12 (b.toNat % 64 * 64), ls := .originLow }) ∧
    (t.ls = .dataHigh → b &&& 0o100 = 0 →
      t.consume b = { t with lw := BitVec.ofNat 12 (b.toNat % 64 * 64), ls := .dataLow })

/-- R237: the low byte of a word stores it in two consecutive cells and advances by one; the address past 0o7777 is the
spec's decision D16. -/
def Obligations.LowByteStoresTheWordTwice : Prop :=
  ∀ (t : LoaderState) (b : TapeByte), t.ls = .dataLow → b ≠ 0o200 → b &&& 0o100 = 0 →
    (t.consume b).lw = t.lw ||| b.setWidth 12 ∧
    (t.consume b).la = t.la + 1 ∧ (t.consume b).ls = .dataHigh ∧ (t.consume b).lo = t.lo ∧
    ∀ a : Word, (t.consume b).img.read a.toNat =
      if a = t.la ∨ a = t.la + 1 then t.lw ||| b.setWidth 12 else t.img.read a.toNat

/-- R239: a byte with bit 6 set starts an origin whatever the state, and is its high byte (D15, log 13). -/
def Obligations.TaggedBytesRestartTheOrigin : Prop :=
  ∀ (t : LoaderState) (b : TapeByte), b &&& 0o100 ≠ 0 →
    t.consume b = { t with la := BitVec.ofNat 12 (b.toNat % 64 * 64), ls := .originLow }

/-- R263, R240, R241: a readable stream never fails, an unreadable one always does, and a partial word or origin at the end of
the stream is dropped. That an incomplete origin leaves last_origin as it was is the spec's decision D17 (R242, log 13), the
state the loader starts in and what a tagged byte starts its D15 (log 13); an unreadable stream as none, a readable one as a
finite list, is the model's form (log 19). -/
def Obligations.ReadableStreamsNeverFail : Prop :=
  ∀ m : Memory,
    load none m = .error .unreadable ∧
    (∀ bs, ∃ img lo, load (some bs) m = .ok (img, lo)) ∧
    ∀ bs b, (b &&& 0o100 ≠ 0 ∨ ((LoaderState.start m).consumeAll bs).ls = .originHigh ∨
        ((LoaderState.start m).consumeAll bs).ls = .dataHigh) →
      load (some (bs ++ [b])) m = load (some bs) m

/-- R243 (D15 to D17, log 13): the net effect of a block of 1 to 4095 words at origin A, from any loader state: the words from A on, the last one
again past the block, and no other cell. -/
def Obligations.TapeBlockLoadsItsWords : Prop :=
  ∀ (t : LoaderState) (a : Word) (ds : List Word) (hne : ds ≠ []), ds.length < 4096 →
    let u := t.consumeAll (tapeBlock a ds)
    (∀ i (hi : i < ds.length), u.img.read ((a.toNat + i) % 4096) = ds[i]) ∧
    u.img.read ((a.toNat + ds.length) % 4096) = ds.getLast hne ∧
    (∀ b, (∀ i, i ≤ ds.length → b ≠ (a.toNat + i) % 4096) → u.img.read b = t.img.read b) ∧
    u.lo = a ∧ u.ls = .dataHigh

/-- R235: the low byte of an origin is ORed whole into the load address, bit 7 of 0o201..0o277 with it, and completes the
origin. That it is recorded in `lo` is the spec's decision D17 (log 13). -/
def Obligations.OriginLowByteCompletesTheOrigin : Prop :=
  ∀ (t : LoaderState) (b : TapeByte), t.ls = .originLow → b ≠ 0o200 → b &&& 0o100 = 0 →
    t.consume b =
      { t with la := t.la ||| BitVec.ofNat 12 b.toNat, lo := t.la ||| BitVec.ofNat 12 b.toNat, ls := .dataHigh } ∧
    (b.toNat ≤ 0o77 ∨ 0o201 ≤ b.toNat ∧ b.toNat ≤ 0o277 ∧ (t.consume b).la.getLsbD 7 = true)
end

