-- ==== Sys2Proof/Laws/Arith.lean ====
section
/-! SUPPORT. One lemma for each arithmetic function: the bit-vector operation it equals
(spec/41_memory_reference.md R133, R134; spec/43_operate_group1.md R174, R179). -/

namespace Sys2Proof.Machine

theorem addWord_eq (a b : Word) : addWord a b = a + b := by
  apply BitVec.eq_of_toNat_eq
  simp [addWord, unboundedSum]

theorem increment_eq (v : Word) : increment v = v + 1 := addWord_eq v 1

theorem complement_eq (v : Word) : complement v = ~~~v := by
  apply BitVec.eq_of_toNat_eq
  have := v.isLt
  simp [complement]
  omega

theorem toggleLink_eq (l : Link) : toggleLink l = ~~~l := by revert l; decide

theorem pack13_toNat (l : Link) (ac : Word) : (pack13 l ac).toNat = l.toNat * 4096 + ac.toNat := by
  have := ac.isLt
  simp only [pack13, BitVec.toNat_append]
  rw [← Nat.shiftLeft_add_eq_or_of_lt this, Nat.shiftLeft_eq]

theorem linkOf13_pack13 (l : Link) (ac : Word) : linkOf13 (pack13 l ac) = l := by
  apply BitVec.eq_of_toNat_eq
  have h1 := ac.isLt
  have h2 := l.isLt
  simp only [linkOf13, BitVec.extractLsb'_toNat, pack13_toNat, Nat.shiftRight_eq_div_pow]
  omega

theorem acOf13_pack13 (l : Link) (ac : Word) : acOf13 (pack13 l ac) = ac := by
  apply BitVec.eq_of_toNat_eq
  have h1 := ac.isLt
  simp only [acOf13, BitVec.extractLsb'_toNat, pack13_toNat, Nat.shiftRight_zero]
  omega

theorem pack13_of (x : BitVec 13) : pack13 (linkOf13 x) (acOf13 x) = x := by
  apply BitVec.eq_of_toNat_eq
  have h1 := x.isLt
  simp only [pack13_toNat, linkOf13, acOf13, BitVec.extractLsb'_toNat, Nat.shiftRight_eq_div_pow]
  omega

theorem rotr13_eq (x : BitVec 13) : rotr13 x = x.rotateRight 1 := by
  apply BitVec.eq_of_getLsbD_eq
  intro i hi
  simp only [rotr13, BitVec.getLsbD_or, BitVec.getLsbD_rotateRight, BitVec.getLsbD_ushiftRight,
    BitVec.getLsbD_shiftLeft, BitVec.getLsbD_and]
  interval_cases i <;> simp

theorem rotl13_eq (x : BitVec 13) : rotl13 x = x.rotateLeft 1 := by
  apply BitVec.eq_of_getLsbD_eq
  intro i hi
  simp only [rotl13, BitVec.getLsbD_or, BitVec.getLsbD_rotateLeft, BitVec.getLsbD_ushiftRight,
    BitVec.getLsbD_shiftLeft, BitVec.getLsbD_and]
  interval_cases i <;> simp

end Sys2Proof.Machine
end

