-- ==== Sys2Proof/Laws/Decode.lean ====
section
/-! SUPPORT. The small lemmas of the decoder and the encoder: the fields of a word that was put together, and the decoder on
each opcode (spec/30_encoding.md R71 to R79). -/

namespace Sys2Proof

theorem opcodeField_memRefWord (op : BitVec 3) (i p : Bool) (o : Offset) :
    opcodeField (memRefWord op i p o) = op := by
  apply BitVec.eq_of_getLsbD_eq
  intro j hj
  simp only [opcodeField, memRefWord, BitVec.getLsbD_extractLsb', BitVec.getLsbD_append]
  interval_cases j <;> simp

theorem indirectBit_memRefWord (op : BitVec 3) (i p : Bool) (o : Offset) :
    indirectBit (memRefWord op i p o) = i := by
  simp only [indirectBit, memRefWord, BitVec.getLsbD_append]
  simp

theorem pageBit_memRefWord (op : BitVec 3) (i p : Bool) (o : Offset) :
    pageBit (memRefWord op i p o) = p := by
  simp only [pageBit, memRefWord, BitVec.getLsbD_append]
  simp

theorem offsetField_memRefWord (op : BitVec 3) (i p : Bool) (o : Offset) :
    offsetField (memRefWord op i p o) = o := by
  apply BitVec.eq_of_getLsbD_eq
  intro j hj
  simp only [offsetField, memRefWord, BitVec.getLsbD_extractLsb', BitVec.getLsbD_append]
  simp [hj]

/-- The offset of a word as a word: its low seven bits (R74). -/
theorem offsetField_setWidth (w : Word) : (offsetField w).setWidth 12 = w &&& 0o177 := by
  apply BitVec.eq_of_getLsbD_eq
  intro j hj
  simp only [offsetField, BitVec.getLsbD_setWidth, BitVec.getLsbD_extractLsb', BitVec.getLsbD_and]
  interval_cases j <;> simp

/-! The decoder on each opcode. -/

theorem decodeWord_and {w : Word} (h : opcodeOf w = .and) :
    decodeWord w = .and (indirectBit w) (pageBit w) (offsetField w) := by simp only [decodeWord, h]

theorem decodeWord_tad {w : Word} (h : opcodeOf w = .tad) :
    decodeWord w = .tad (indirectBit w) (pageBit w) (offsetField w) := by simp only [decodeWord, h]

theorem decodeWord_isz {w : Word} (h : opcodeOf w = .isz) :
    decodeWord w = .isz (indirectBit w) (pageBit w) (offsetField w) := by simp only [decodeWord, h]

theorem decodeWord_dca {w : Word} (h : opcodeOf w = .dca) :
    decodeWord w = .dca (indirectBit w) (pageBit w) (offsetField w) := by simp only [decodeWord, h]

theorem decodeWord_jms {w : Word} (h : opcodeOf w = .jms) :
    decodeWord w = .jms (indirectBit w) (pageBit w) (offsetField w) := by simp only [decodeWord, h]

theorem decodeWord_jmp {w : Word} (h : opcodeOf w = .jmp) :
    decodeWord w = .jmp (indirectBit w) (pageBit w) (offsetField w) := by simp only [decodeWord, h]

theorem decodeWord_iot {w : Word} (h : opcodeOf w = .iot) : decodeWord w = .iot (controlField w) := by
  simp only [decodeWord, h]

theorem decodeWord_opr {w : Word} (h : opcodeOf w = .opr) : decodeWord w = decodeOperate w := by
  simp only [decodeWord, h]

/-- An OPR word is a Group 1, Group 2 or third-group word (R79). -/
theorem decodeOperate_cases (w : Word) :
    (w.getLsbD 8 = false ∧ decodeOperate w = decodeGroup1 (group1Bits w)) ∨
      (w.getLsbD 8 = true ∧ w.getLsbD 0 = false ∧ decodeOperate w = decodeGroup2 (group2Bits w)) ∨
      (w.getLsbD 8 = true ∧ w.getLsbD 0 = true ∧ decodeOperate w = .opr3 (w.extractLsb' 1 7)) := by
  unfold decodeOperate
  cases h8 : w.getLsbD 8 <;> cases h0 : w.getLsbD 0 <;> simp

/-! The control bits of a group word. -/

theorem group1Bits_control (w : Word) : (group1Bits w).control = w.setWidth 8 := by
  apply BitVec.eq_of_getLsbD_eq
  intro j hj
  simp only [group1Bits, Group1.control, BitVec.getLsbD_append, BitVec.getLsbD_setWidth]
  interval_cases j <;> simp

theorem group2Bits_control {w : Word} (h : w.getLsbD 0 = false) : (group2Bits w).control = w.setWidth 8 := by
  apply BitVec.eq_of_getLsbD_eq
  intro j hj
  simp only [group2Bits, Group2.control, BitVec.getLsbD_append, BitVec.getLsbD_setWidth]
  interval_cases j <;> simp
  exact h

theorem opr3_control {w : Word} (h : w.getLsbD 0 = true) :
    (w.extractLsb' 1 7 ++ 1#1 : BitVec 8) = w.setWidth 8 := by
  apply BitVec.eq_of_getLsbD_eq
  intro j hj
  simp only [BitVec.getLsbD_append, BitVec.getLsbD_setWidth, BitVec.getLsbD_extractLsb']
  interval_cases j <;> simp
  exact h

theorem controlField_setWidth (w : Word) : (controlField w).setWidth 8 = w.setWidth 8 := by
  apply BitVec.eq_of_getLsbD_eq
  intro j hj
  simp only [controlField, BitVec.getLsbD_setWidth, BitVec.getLsbD_extractLsb']
  interval_cases j <;> simp

theorem pageBit_setWidth (w : Word) : (w.setWidth 8).getLsbD 7 = pageBit w := by
  simp only [pageBit, BitVec.getLsbD_setWidth]
  simp

theorem offsetField_of_control (w : Word) : (w.setWidth 8).setWidth 7 = offsetField w := by
  apply BitVec.eq_of_getLsbD_eq
  intro j hj
  simp only [offsetField, BitVec.getLsbD_setWidth, BitVec.getLsbD_extractLsb']
  interval_cases j <;> simp

end Sys2Proof
end

