-- ==== Sys2Proof/Laws/State.lean ====
section
/-! SUPPORT. One lemma for each field and each register update, true by rfl, and what the memory accessors see of a
register update. -/

namespace Sys2Proof.Machine

/-! pc updated. -/

@[simp] theorem State.setPc_pc (s : State) (v : Word) : (s.setPc v).pc = v := rfl
@[simp] theorem State.setPc_ac (s : State) (v : Word) : (s.setPc v).ac = s.ac := rfl
@[simp] theorem State.setPc_l (s : State) (v : Word) : (s.setPc v).l = s.l := rfl
@[simp] theorem State.setPc_ma (s : State) (v : Word) : (s.setPc v).ma = s.ma := rfl
@[simp] theorem State.setPc_mb (s : State) (v : Word) : (s.setPc v).mb = s.mb := rfl
@[simp] theorem State.setPc_sr (s : State) (v : Word) : (s.setPc v).sr = s.sr := rfl
@[simp] theorem State.setPc_ir (s : State) (v : Word) : (s.setPc v).ir = s.ir := rfl
@[simp] theorem State.setPc_run (s : State) (v : Word) : (s.setPc v).run = s.run := rfl
@[simp] theorem State.setPc_cycle (s : State) (v : Word) : (s.setPc v).cycle = s.cycle := rfl
@[simp] theorem State.setPc_cyc (s : State) (v : Word) : (s.setPc v).cyc = s.cyc := rfl
@[simp] theorem State.setPc_ins (s : State) (v : Word) : (s.setPc v).ins = s.ins := rfl
@[simp] theorem State.setPc_mem (s : State) (v : Word) : (s.setPc v).mem = s.mem := rfl
@[simp] theorem State.setPc_fault (s : State) (v : Word) : (s.setPc v).fault = s.fault := rfl
@[simp] theorem State.setPc_ss (s : State) (v : Word) : (s.setPc v).ss = s.ss := rfl
@[simp] theorem State.setPc_readMem (s : State) (v : Word) (a : Word) :
    (s.setPc v).readMem a = s.readMem a := rfl

/-! ac updated. -/

@[simp] theorem State.setAc_pc (s : State) (v : Word) : (s.setAc v).pc = s.pc := rfl
@[simp] theorem State.setAc_ac (s : State) (v : Word) : (s.setAc v).ac = v := rfl
@[simp] theorem State.setAc_l (s : State) (v : Word) : (s.setAc v).l = s.l := rfl
@[simp] theorem State.setAc_ma (s : State) (v : Word) : (s.setAc v).ma = s.ma := rfl
@[simp] theorem State.setAc_mb (s : State) (v : Word) : (s.setAc v).mb = s.mb := rfl
@[simp] theorem State.setAc_sr (s : State) (v : Word) : (s.setAc v).sr = s.sr := rfl
@[simp] theorem State.setAc_ir (s : State) (v : Word) : (s.setAc v).ir = s.ir := rfl
@[simp] theorem State.setAc_run (s : State) (v : Word) : (s.setAc v).run = s.run := rfl
@[simp] theorem State.setAc_cycle (s : State) (v : Word) : (s.setAc v).cycle = s.cycle := rfl
@[simp] theorem State.setAc_cyc (s : State) (v : Word) : (s.setAc v).cyc = s.cyc := rfl
@[simp] theorem State.setAc_ins (s : State) (v : Word) : (s.setAc v).ins = s.ins := rfl
@[simp] theorem State.setAc_mem (s : State) (v : Word) : (s.setAc v).mem = s.mem := rfl
@[simp] theorem State.setAc_fault (s : State) (v : Word) : (s.setAc v).fault = s.fault := rfl
@[simp] theorem State.setAc_ss (s : State) (v : Word) : (s.setAc v).ss = s.ss := rfl
@[simp] theorem State.setAc_readMem (s : State) (v : Word) (a : Word) :
    (s.setAc v).readMem a = s.readMem a := rfl

/-! l updated. -/

@[simp] theorem State.setL_pc (s : State) (v : Link) : (s.setL v).pc = s.pc := rfl
@[simp] theorem State.setL_ac (s : State) (v : Link) : (s.setL v).ac = s.ac := rfl
@[simp] theorem State.setL_l (s : State) (v : Link) : (s.setL v).l = v := rfl
@[simp] theorem State.setL_ma (s : State) (v : Link) : (s.setL v).ma = s.ma := rfl
@[simp] theorem State.setL_mb (s : State) (v : Link) : (s.setL v).mb = s.mb := rfl
@[simp] theorem State.setL_sr (s : State) (v : Link) : (s.setL v).sr = s.sr := rfl
@[simp] theorem State.setL_ir (s : State) (v : Link) : (s.setL v).ir = s.ir := rfl
@[simp] theorem State.setL_run (s : State) (v : Link) : (s.setL v).run = s.run := rfl
@[simp] theorem State.setL_cycle (s : State) (v : Link) : (s.setL v).cycle = s.cycle := rfl
@[simp] theorem State.setL_cyc (s : State) (v : Link) : (s.setL v).cyc = s.cyc := rfl
@[simp] theorem State.setL_ins (s : State) (v : Link) : (s.setL v).ins = s.ins := rfl
@[simp] theorem State.setL_mem (s : State) (v : Link) : (s.setL v).mem = s.mem := rfl
@[simp] theorem State.setL_fault (s : State) (v : Link) : (s.setL v).fault = s.fault := rfl
@[simp] theorem State.setL_ss (s : State) (v : Link) : (s.setL v).ss = s.ss := rfl
@[simp] theorem State.setL_readMem (s : State) (v : Link) (a : Word) :
    (s.setL v).readMem a = s.readMem a := rfl

/-! ma updated. -/

@[simp] theorem State.setMa_pc (s : State) (v : Word) : (s.setMa v).pc = s.pc := rfl
@[simp] theorem State.setMa_ac (s : State) (v : Word) : (s.setMa v).ac = s.ac := rfl
@[simp] theorem State.setMa_l (s : State) (v : Word) : (s.setMa v).l = s.l := rfl
@[simp] theorem State.setMa_ma (s : State) (v : Word) : (s.setMa v).ma = v := rfl
@[simp] theorem State.setMa_mb (s : State) (v : Word) : (s.setMa v).mb = s.mb := rfl
@[simp] theorem State.setMa_sr (s : State) (v : Word) : (s.setMa v).sr = s.sr := rfl
@[simp] theorem State.setMa_ir (s : State) (v : Word) : (s.setMa v).ir = s.ir := rfl
@[simp] theorem State.setMa_run (s : State) (v : Word) : (s.setMa v).run = s.run := rfl
@[simp] theorem State.setMa_cycle (s : State) (v : Word) : (s.setMa v).cycle = s.cycle := rfl
@[simp] theorem State.setMa_cyc (s : State) (v : Word) : (s.setMa v).cyc = s.cyc := rfl
@[simp] theorem State.setMa_ins (s : State) (v : Word) : (s.setMa v).ins = s.ins := rfl
@[simp] theorem State.setMa_mem (s : State) (v : Word) : (s.setMa v).mem = s.mem := rfl
@[simp] theorem State.setMa_fault (s : State) (v : Word) : (s.setMa v).fault = s.fault := rfl
@[simp] theorem State.setMa_ss (s : State) (v : Word) : (s.setMa v).ss = s.ss := rfl
@[simp] theorem State.setMa_readMem (s : State) (v : Word) (a : Word) :
    (s.setMa v).readMem a = s.readMem a := rfl

/-! mb updated. -/

@[simp] theorem State.setMb_pc (s : State) (v : Word) : (s.setMb v).pc = s.pc := rfl
@[simp] theorem State.setMb_ac (s : State) (v : Word) : (s.setMb v).ac = s.ac := rfl
@[simp] theorem State.setMb_l (s : State) (v : Word) : (s.setMb v).l = s.l := rfl
@[simp] theorem State.setMb_ma (s : State) (v : Word) : (s.setMb v).ma = s.ma := rfl
@[simp] theorem State.setMb_mb (s : State) (v : Word) : (s.setMb v).mb = v := rfl
@[simp] theorem State.setMb_sr (s : State) (v : Word) : (s.setMb v).sr = s.sr := rfl
@[simp] theorem State.setMb_ir (s : State) (v : Word) : (s.setMb v).ir = s.ir := rfl
@[simp] theorem State.setMb_run (s : State) (v : Word) : (s.setMb v).run = s.run := rfl
@[simp] theorem State.setMb_cycle (s : State) (v : Word) : (s.setMb v).cycle = s.cycle := rfl
@[simp] theorem State.setMb_cyc (s : State) (v : Word) : (s.setMb v).cyc = s.cyc := rfl
@[simp] theorem State.setMb_ins (s : State) (v : Word) : (s.setMb v).ins = s.ins := rfl
@[simp] theorem State.setMb_mem (s : State) (v : Word) : (s.setMb v).mem = s.mem := rfl
@[simp] theorem State.setMb_fault (s : State) (v : Word) : (s.setMb v).fault = s.fault := rfl
@[simp] theorem State.setMb_ss (s : State) (v : Word) : (s.setMb v).ss = s.ss := rfl
@[simp] theorem State.setMb_readMem (s : State) (v : Word) (a : Word) :
    (s.setMb v).readMem a = s.readMem a := rfl

/-! sr updated. -/

@[simp] theorem State.setSr_pc (s : State) (v : Word) : (s.setSr v).pc = s.pc := rfl
@[simp] theorem State.setSr_ac (s : State) (v : Word) : (s.setSr v).ac = s.ac := rfl
@[simp] theorem State.setSr_l (s : State) (v : Word) : (s.setSr v).l = s.l := rfl
@[simp] theorem State.setSr_ma (s : State) (v : Word) : (s.setSr v).ma = s.ma := rfl
@[simp] theorem State.setSr_mb (s : State) (v : Word) : (s.setSr v).mb = s.mb := rfl
@[simp] theorem State.setSr_sr (s : State) (v : Word) : (s.setSr v).sr = v := rfl
@[simp] theorem State.setSr_ir (s : State) (v : Word) : (s.setSr v).ir = s.ir := rfl
@[simp] theorem State.setSr_run (s : State) (v : Word) : (s.setSr v).run = s.run := rfl
@[simp] theorem State.setSr_cycle (s : State) (v : Word) : (s.setSr v).cycle = s.cycle := rfl
@[simp] theorem State.setSr_cyc (s : State) (v : Word) : (s.setSr v).cyc = s.cyc := rfl
@[simp] theorem State.setSr_ins (s : State) (v : Word) : (s.setSr v).ins = s.ins := rfl
@[simp] theorem State.setSr_mem (s : State) (v : Word) : (s.setSr v).mem = s.mem := rfl
@[simp] theorem State.setSr_fault (s : State) (v : Word) : (s.setSr v).fault = s.fault := rfl
@[simp] theorem State.setSr_ss (s : State) (v : Word) : (s.setSr v).ss = s.ss := rfl
@[simp] theorem State.setSr_readMem (s : State) (v : Word) (a : Word) :
    (s.setSr v).readMem a = s.readMem a := rfl

/-! ir updated. -/

@[simp] theorem State.setIr_pc (s : State) (v : Word) : (s.setIr v).pc = s.pc := rfl
@[simp] theorem State.setIr_ac (s : State) (v : Word) : (s.setIr v).ac = s.ac := rfl
@[simp] theorem State.setIr_l (s : State) (v : Word) : (s.setIr v).l = s.l := rfl
@[simp] theorem State.setIr_ma (s : State) (v : Word) : (s.setIr v).ma = s.ma := rfl
@[simp] theorem State.setIr_mb (s : State) (v : Word) : (s.setIr v).mb = s.mb := rfl
@[simp] theorem State.setIr_sr (s : State) (v : Word) : (s.setIr v).sr = s.sr := rfl
@[simp] theorem State.setIr_ir (s : State) (v : Word) : (s.setIr v).ir = v := rfl
@[simp] theorem State.setIr_run (s : State) (v : Word) : (s.setIr v).run = s.run := rfl
@[simp] theorem State.setIr_cycle (s : State) (v : Word) : (s.setIr v).cycle = s.cycle := rfl
@[simp] theorem State.setIr_cyc (s : State) (v : Word) : (s.setIr v).cyc = s.cyc := rfl
@[simp] theorem State.setIr_ins (s : State) (v : Word) : (s.setIr v).ins = s.ins := rfl
@[simp] theorem State.setIr_mem (s : State) (v : Word) : (s.setIr v).mem = s.mem := rfl
@[simp] theorem State.setIr_fault (s : State) (v : Word) : (s.setIr v).fault = s.fault := rfl
@[simp] theorem State.setIr_ss (s : State) (v : Word) : (s.setIr v).ss = s.ss := rfl
@[simp] theorem State.setIr_readMem (s : State) (v : Word) (a : Word) :
    (s.setIr v).readMem a = s.readMem a := rfl

/-! run updated. -/

@[simp] theorem State.setRun_pc (s : State) (v : Bool) : (s.setRun v).pc = s.pc := rfl
@[simp] theorem State.setRun_ac (s : State) (v : Bool) : (s.setRun v).ac = s.ac := rfl
@[simp] theorem State.setRun_l (s : State) (v : Bool) : (s.setRun v).l = s.l := rfl
@[simp] theorem State.setRun_ma (s : State) (v : Bool) : (s.setRun v).ma = s.ma := rfl
@[simp] theorem State.setRun_mb (s : State) (v : Bool) : (s.setRun v).mb = s.mb := rfl
@[simp] theorem State.setRun_sr (s : State) (v : Bool) : (s.setRun v).sr = s.sr := rfl
@[simp] theorem State.setRun_ir (s : State) (v : Bool) : (s.setRun v).ir = s.ir := rfl
@[simp] theorem State.setRun_run (s : State) (v : Bool) : (s.setRun v).run = v := rfl
@[simp] theorem State.setRun_cycle (s : State) (v : Bool) : (s.setRun v).cycle = s.cycle := rfl
@[simp] theorem State.setRun_cyc (s : State) (v : Bool) : (s.setRun v).cyc = s.cyc := rfl
@[simp] theorem State.setRun_ins (s : State) (v : Bool) : (s.setRun v).ins = s.ins := rfl
@[simp] theorem State.setRun_mem (s : State) (v : Bool) : (s.setRun v).mem = s.mem := rfl
@[simp] theorem State.setRun_fault (s : State) (v : Bool) : (s.setRun v).fault = s.fault := rfl
@[simp] theorem State.setRun_ss (s : State) (v : Bool) : (s.setRun v).ss = s.ss := rfl
@[simp] theorem State.setRun_readMem (s : State) (v : Bool) (a : Word) :
    (s.setRun v).readMem a = s.readMem a := rfl

/-! cycle updated. -/

@[simp] theorem State.setCycle_pc (s : State) (v : Cycle) : (s.setCycle v).pc = s.pc := rfl
@[simp] theorem State.setCycle_ac (s : State) (v : Cycle) : (s.setCycle v).ac = s.ac := rfl
@[simp] theorem State.setCycle_l (s : State) (v : Cycle) : (s.setCycle v).l = s.l := rfl
@[simp] theorem State.setCycle_ma (s : State) (v : Cycle) : (s.setCycle v).ma = s.ma := rfl
@[simp] theorem State.setCycle_mb (s : State) (v : Cycle) : (s.setCycle v).mb = s.mb := rfl
@[simp] theorem State.setCycle_sr (s : State) (v : Cycle) : (s.setCycle v).sr = s.sr := rfl
@[simp] theorem State.setCycle_ir (s : State) (v : Cycle) : (s.setCycle v).ir = s.ir := rfl
@[simp] theorem State.setCycle_run (s : State) (v : Cycle) : (s.setCycle v).run = s.run := rfl
@[simp] theorem State.setCycle_cycle (s : State) (v : Cycle) : (s.setCycle v).cycle = v := rfl
@[simp] theorem State.setCycle_cyc (s : State) (v : Cycle) : (s.setCycle v).cyc = s.cyc := rfl
@[simp] theorem State.setCycle_ins (s : State) (v : Cycle) : (s.setCycle v).ins = s.ins := rfl
@[simp] theorem State.setCycle_mem (s : State) (v : Cycle) : (s.setCycle v).mem = s.mem := rfl
@[simp] theorem State.setCycle_fault (s : State) (v : Cycle) : (s.setCycle v).fault = s.fault := rfl
@[simp] theorem State.setCycle_ss (s : State) (v : Cycle) : (s.setCycle v).ss = s.ss := rfl
@[simp] theorem State.setCycle_readMem (s : State) (v : Cycle) (a : Word) :
    (s.setCycle v).readMem a = s.readMem a := rfl

/-! cyc updated. -/

@[simp] theorem State.setCyc_pc (s : State) (v : Nat) : (s.setCyc v).pc = s.pc := rfl
@[simp] theorem State.setCyc_ac (s : State) (v : Nat) : (s.setCyc v).ac = s.ac := rfl
@[simp] theorem State.setCyc_l (s : State) (v : Nat) : (s.setCyc v).l = s.l := rfl
@[simp] theorem State.setCyc_ma (s : State) (v : Nat) : (s.setCyc v).ma = s.ma := rfl
@[simp] theorem State.setCyc_mb (s : State) (v : Nat) : (s.setCyc v).mb = s.mb := rfl
@[simp] theorem State.setCyc_sr (s : State) (v : Nat) : (s.setCyc v).sr = s.sr := rfl
@[simp] theorem State.setCyc_ir (s : State) (v : Nat) : (s.setCyc v).ir = s.ir := rfl
@[simp] theorem State.setCyc_run (s : State) (v : Nat) : (s.setCyc v).run = s.run := rfl
@[simp] theorem State.setCyc_cycle (s : State) (v : Nat) : (s.setCyc v).cycle = s.cycle := rfl
@[simp] theorem State.setCyc_cyc (s : State) (v : Nat) : (s.setCyc v).cyc = v := rfl
@[simp] theorem State.setCyc_ins (s : State) (v : Nat) : (s.setCyc v).ins = s.ins := rfl
@[simp] theorem State.setCyc_mem (s : State) (v : Nat) : (s.setCyc v).mem = s.mem := rfl
@[simp] theorem State.setCyc_fault (s : State) (v : Nat) : (s.setCyc v).fault = s.fault := rfl
@[simp] theorem State.setCyc_ss (s : State) (v : Nat) : (s.setCyc v).ss = s.ss := rfl
@[simp] theorem State.setCyc_readMem (s : State) (v : Nat) (a : Word) :
    (s.setCyc v).readMem a = s.readMem a := rfl

/-! ins updated. -/

@[simp] theorem State.setIns_pc (s : State) (v : Nat) : (s.setIns v).pc = s.pc := rfl
@[simp] theorem State.setIns_ac (s : State) (v : Nat) : (s.setIns v).ac = s.ac := rfl
@[simp] theorem State.setIns_l (s : State) (v : Nat) : (s.setIns v).l = s.l := rfl
@[simp] theorem State.setIns_ma (s : State) (v : Nat) : (s.setIns v).ma = s.ma := rfl
@[simp] theorem State.setIns_mb (s : State) (v : Nat) : (s.setIns v).mb = s.mb := rfl
@[simp] theorem State.setIns_sr (s : State) (v : Nat) : (s.setIns v).sr = s.sr := rfl
@[simp] theorem State.setIns_ir (s : State) (v : Nat) : (s.setIns v).ir = s.ir := rfl
@[simp] theorem State.setIns_run (s : State) (v : Nat) : (s.setIns v).run = s.run := rfl
@[simp] theorem State.setIns_cycle (s : State) (v : Nat) : (s.setIns v).cycle = s.cycle := rfl
@[simp] theorem State.setIns_cyc (s : State) (v : Nat) : (s.setIns v).cyc = s.cyc := rfl
@[simp] theorem State.setIns_ins (s : State) (v : Nat) : (s.setIns v).ins = v := rfl
@[simp] theorem State.setIns_mem (s : State) (v : Nat) : (s.setIns v).mem = s.mem := rfl
@[simp] theorem State.setIns_fault (s : State) (v : Nat) : (s.setIns v).fault = s.fault := rfl
@[simp] theorem State.setIns_ss (s : State) (v : Nat) : (s.setIns v).ss = s.ss := rfl
@[simp] theorem State.setIns_readMem (s : State) (v : Nat) (a : Word) :
    (s.setIns v).readMem a = s.readMem a := rfl

/-! mem updated. -/

@[simp] theorem State.setMem_pc (s : State) (v : Memory) : (s.setMem v).pc = s.pc := rfl
@[simp] theorem State.setMem_ac (s : State) (v : Memory) : (s.setMem v).ac = s.ac := rfl
@[simp] theorem State.setMem_l (s : State) (v : Memory) : (s.setMem v).l = s.l := rfl
@[simp] theorem State.setMem_ma (s : State) (v : Memory) : (s.setMem v).ma = s.ma := rfl
@[simp] theorem State.setMem_mb (s : State) (v : Memory) : (s.setMem v).mb = s.mb := rfl
@[simp] theorem State.setMem_sr (s : State) (v : Memory) : (s.setMem v).sr = s.sr := rfl
@[simp] theorem State.setMem_ir (s : State) (v : Memory) : (s.setMem v).ir = s.ir := rfl
@[simp] theorem State.setMem_run (s : State) (v : Memory) : (s.setMem v).run = s.run := rfl
@[simp] theorem State.setMem_cycle (s : State) (v : Memory) : (s.setMem v).cycle = s.cycle := rfl
@[simp] theorem State.setMem_cyc (s : State) (v : Memory) : (s.setMem v).cyc = s.cyc := rfl
@[simp] theorem State.setMem_ins (s : State) (v : Memory) : (s.setMem v).ins = s.ins := rfl
@[simp] theorem State.setMem_mem (s : State) (v : Memory) : (s.setMem v).mem = v := rfl
@[simp] theorem State.setMem_fault (s : State) (v : Memory) : (s.setMem v).fault = s.fault := rfl
@[simp] theorem State.setMem_ss (s : State) (v : Memory) : (s.setMem v).ss = s.ss := rfl
@[simp] theorem State.setMem_readMem (s : State) (v : Memory) (a : Word) :
    (s.setMem v).readMem a = v.read a.toNat := rfl

/-! fault updated. -/

@[simp] theorem State.setFault_pc (s : State) (v : Option ErrorKind) : (s.setFault v).pc = s.pc := rfl
@[simp] theorem State.setFault_ac (s : State) (v : Option ErrorKind) : (s.setFault v).ac = s.ac := rfl
@[simp] theorem State.setFault_l (s : State) (v : Option ErrorKind) : (s.setFault v).l = s.l := rfl
@[simp] theorem State.setFault_ma (s : State) (v : Option ErrorKind) : (s.setFault v).ma = s.ma := rfl
@[simp] theorem State.setFault_mb (s : State) (v : Option ErrorKind) : (s.setFault v).mb = s.mb := rfl
@[simp] theorem State.setFault_sr (s : State) (v : Option ErrorKind) : (s.setFault v).sr = s.sr := rfl
@[simp] theorem State.setFault_ir (s : State) (v : Option ErrorKind) : (s.setFault v).ir = s.ir := rfl
@[simp] theorem State.setFault_run (s : State) (v : Option ErrorKind) : (s.setFault v).run = s.run := rfl
@[simp] theorem State.setFault_cycle (s : State) (v : Option ErrorKind) : (s.setFault v).cycle = s.cycle := rfl
@[simp] theorem State.setFault_cyc (s : State) (v : Option ErrorKind) : (s.setFault v).cyc = s.cyc := rfl
@[simp] theorem State.setFault_ins (s : State) (v : Option ErrorKind) : (s.setFault v).ins = s.ins := rfl
@[simp] theorem State.setFault_mem (s : State) (v : Option ErrorKind) : (s.setFault v).mem = s.mem := rfl
@[simp] theorem State.setFault_fault (s : State) (v : Option ErrorKind) : (s.setFault v).fault = v := rfl
@[simp] theorem State.setFault_ss (s : State) (v : Option ErrorKind) : (s.setFault v).ss = s.ss := rfl
@[simp] theorem State.setFault_readMem (s : State) (v : Option ErrorKind) (a : Word) :
    (s.setFault v).readMem a = s.readMem a := rfl

/-! ss updated. -/

@[simp] theorem State.setSs_pc (s : State) (v : Bool) : (s.setSs v).pc = s.pc := rfl
@[simp] theorem State.setSs_ac (s : State) (v : Bool) : (s.setSs v).ac = s.ac := rfl
@[simp] theorem State.setSs_l (s : State) (v : Bool) : (s.setSs v).l = s.l := rfl
@[simp] theorem State.setSs_ma (s : State) (v : Bool) : (s.setSs v).ma = s.ma := rfl
@[simp] theorem State.setSs_mb (s : State) (v : Bool) : (s.setSs v).mb = s.mb := rfl
@[simp] theorem State.setSs_sr (s : State) (v : Bool) : (s.setSs v).sr = s.sr := rfl
@[simp] theorem State.setSs_ir (s : State) (v : Bool) : (s.setSs v).ir = s.ir := rfl
@[simp] theorem State.setSs_run (s : State) (v : Bool) : (s.setSs v).run = s.run := rfl
@[simp] theorem State.setSs_cycle (s : State) (v : Bool) : (s.setSs v).cycle = s.cycle := rfl
@[simp] theorem State.setSs_cyc (s : State) (v : Bool) : (s.setSs v).cyc = s.cyc := rfl
@[simp] theorem State.setSs_ins (s : State) (v : Bool) : (s.setSs v).ins = s.ins := rfl
@[simp] theorem State.setSs_mem (s : State) (v : Bool) : (s.setSs v).mem = s.mem := rfl
@[simp] theorem State.setSs_fault (s : State) (v : Bool) : (s.setSs v).fault = s.fault := rfl
@[simp] theorem State.setSs_ss (s : State) (v : Bool) : (s.setSs v).ss = v := rfl
@[simp] theorem State.setSs_readMem (s : State) (v : Bool) (a : Word) :
    (s.setSs v).readMem a = s.readMem a := rfl

/-! A memory write. -/

@[simp] theorem State.writeMem_pc (s : State) (a v : Word) : (s.writeMem a v).pc = s.pc := rfl
@[simp] theorem State.writeMem_ac (s : State) (a v : Word) : (s.writeMem a v).ac = s.ac := rfl
@[simp] theorem State.writeMem_l (s : State) (a v : Word) : (s.writeMem a v).l = s.l := rfl
@[simp] theorem State.writeMem_ma (s : State) (a v : Word) : (s.writeMem a v).ma = s.ma := rfl
@[simp] theorem State.writeMem_mb (s : State) (a v : Word) : (s.writeMem a v).mb = s.mb := rfl
@[simp] theorem State.writeMem_sr (s : State) (a v : Word) : (s.writeMem a v).sr = s.sr := rfl
@[simp] theorem State.writeMem_ir (s : State) (a v : Word) : (s.writeMem a v).ir = s.ir := rfl
@[simp] theorem State.writeMem_run (s : State) (a v : Word) : (s.writeMem a v).run = s.run := rfl
@[simp] theorem State.writeMem_cycle (s : State) (a v : Word) : (s.writeMem a v).cycle = s.cycle := rfl
@[simp] theorem State.writeMem_cyc (s : State) (a v : Word) : (s.writeMem a v).cyc = s.cyc := rfl
@[simp] theorem State.writeMem_ins (s : State) (a v : Word) : (s.writeMem a v).ins = s.ins := rfl
@[simp] theorem State.writeMem_mem (s : State) (a v : Word) : (s.writeMem a v).mem = s.mem.write a.toNat v := rfl
@[simp] theorem State.writeMem_fault (s : State) (a v : Word) : (s.writeMem a v).fault = s.fault := rfl
@[simp] theorem State.writeMem_ss (s : State) (a v : Word) : (s.writeMem a v).ss = s.ss := rfl

/-! An effect applied when its bit is set. -/

@[simp] theorem applyIf_true (f : State → State) (s : State) : applyIf true f s = f s := rfl
@[simp] theorem applyIf_false (f : State → State) (s : State) : applyIf false f s = s := rfl

end Sys2Proof.Machine
end

