-- ==== Sys2Proof/Laws/Memory.lean ====
section
/-! SUPPORT. The laws of memory: read after write, and that every memory operation keeps the canonical form
(spec/20_memory.md R51, R52; notes/assumptions/1.md). -/

namespace Sys2Proof.Machine

theorem Memory.read_erase_same (m : Memory) (a : Nat) : (Memory.erase m a).read a = 0 := by
  induction m with
  | nil => rfl
  | cons c m ih =>
    obtain ⟨k, x⟩ := c
    by_cases h : k = a <;> simp [Memory.erase, Memory.read, h, ih]

theorem Memory.read_erase_other (m : Memory) {a b : Nat} (hab : b ≠ a) :
    (Memory.erase m a).read b = m.read b := by
  induction m with
  | nil => rfl
  | cons c m ih =>
    obtain ⟨k, x⟩ := c
    by_cases h : k = a
    · subst h
      simp [Memory.erase, Memory.read, ih, Ne.symm hab]
    · simp [Memory.erase, Memory.read, h, ih]

theorem Memory.read_insert_same (m : Memory) (a : Nat) (v : Word) (h : (Memory.erase m a) = m) :
    (Memory.insert m a v).read a = v := by
  induction m with
  | nil => simp [Memory.insert, Memory.read]
  | cons c m ih =>
    obtain ⟨k, x⟩ := c
    by_cases hk : k = a
    · subst hk
      have hlen : ∀ m' : Memory, (Memory.erase m' k).length ≤ m'.length := by
        intro m'
        induction m' with
        | nil => simp [Memory.erase]
        | cons d m' ih' =>
          simp only [Memory.erase]
          split <;> simp <;> omega
      have := congrArg List.length h
      have := hlen m
      simp [Memory.erase] at *
      omega
    · have hm : Memory.erase m a = m := by simpa [Memory.erase, hk] using h
      by_cases hl : a < k <;> simp [Memory.insert, Memory.read, hl, hk, ih hm]

theorem Memory.read_insert_other (m : Memory) {a b : Nat} (v : Word) (hab : b ≠ a) :
    (Memory.insert m a v).read b = m.read b := by
  induction m with
  | nil => simp [Memory.insert, Memory.read, Ne.symm hab]
  | cons c m ih =>
    obtain ⟨k, x⟩ := c
    by_cases hl : a < k
    · simp [Memory.insert, Memory.read, hl, Ne.symm hab]
    · simp [Memory.insert, Memory.read, hl, ih]

theorem Memory.erase_erase (m : Memory) (a : Nat) : Memory.erase (Memory.erase m a) a = Memory.erase m a := by
  induction m with
  | nil => rfl
  | cons c m ih =>
    obtain ⟨k, x⟩ := c
    by_cases h : k = a <;> simp [Memory.erase, h, ih]

/-- R52: a write is read back, in every memory, canonical or not. -/
theorem Memory.read_write_same (m : Memory) (a : Nat) (v : Word) : (m.write a v).read a = v := by
  unfold Memory.write
  split
  · next h => rw [Memory.read_erase_same, h]
  · exact Memory.read_insert_same _ a v (Memory.erase_erase m a)

/-- R52: a write changes no other cell. -/
theorem Memory.read_write_other (m : Memory) {a b : Nat} (v : Word) (hab : b ≠ a) :
    (m.write a v).read b = m.read b := by
  unfold Memory.write
  split
  · exact Memory.read_erase_other m hab
  · rw [Memory.read_insert_other _ v hab, Memory.read_erase_other m hab]

/-- Both at once. -/
theorem Memory.read_write (m : Memory) (a b : Nat) (v : Word) :
    (m.write a v).read b = if b = a then v else m.read b := by
  split
  · next h => rw [h, Memory.read_write_same]
  · next h => exact Memory.read_write_other m v h

/-- The same with word addresses. -/
theorem Memory.read_write_word (m : Memory) (a b v : Word) :
    (m.write a.toNat v).read b.toNat = if b = a then v else m.read b.toNat := by
  have h : b.toNat = a.toNat ↔ b = a := BitVec.toNat_inj
  simp only [Memory.read_write, h]

theorem State.readMem_eq (s : State) (a : Word) : s.readMem a = s.mem.read a.toNat := rfl

theorem State.readMem_writeMem (s : State) (a b v : Word) :
    (s.writeMem a v).readMem b = if b = a then v else s.readMem b := by
  simp only [State.readMem, State.writeMem_mem, Memory.read_write_word]

/-! The canonical form. -/

theorem Memory.wfFrom_mono {m : Memory} {lo lo' : Nat} (hle : lo' ≤ lo) (h : Memory.wfFrom lo m = true) :
    Memory.wfFrom lo' m = true := by
  cases m with
  | nil => rfl
  | cons c m =>
    obtain ⟨k, x⟩ := c
    simp only [Memory.wfFrom, Bool.and_eq_true, decide_eq_true_eq] at h ⊢
    exact ⟨⟨⟨by omega, h.1.1.2⟩, h.1.2⟩, h.2⟩

theorem Memory.wfFrom_erase {m : Memory} {lo : Nat} (a : Nat) (h : Memory.wfFrom lo m = true) :
    Memory.wfFrom lo (Memory.erase m a) = true := by
  induction m generalizing lo with
  | nil => rfl
  | cons c m ih =>
    obtain ⟨k, x⟩ := c
    simp only [Memory.wfFrom, Bool.and_eq_true, decide_eq_true_eq] at h
    by_cases hk : k = a
    · simp only [Memory.erase, hk, if_true]
      exact Memory.wfFrom_mono (by omega) (ih h.2)
    · simp only [Memory.erase, hk, if_false, Memory.wfFrom, Bool.and_eq_true, decide_eq_true_eq]
      exact ⟨h.1, ih h.2⟩

theorem Memory.wfFrom_insert {m : Memory} {lo a : Nat} {v : Word} (h : Memory.wfFrom lo m = true)
    (he : Memory.erase m a = m) (hlo : lo ≤ a) (ha : a < 4096) (hv : v ≠ 0) :
    Memory.wfFrom lo (Memory.insert m a v) = true := by
  induction m generalizing lo with
  | nil => simpa [Memory.insert, Memory.wfFrom, hlo, ha] using hv
  | cons c m ih =>
    obtain ⟨k, x⟩ := c
    simp only [Memory.wfFrom, Bool.and_eq_true, decide_eq_true_eq] at h
    have hk : k ≠ a := by
      intro hk
      subst hk
      have hr := Memory.read_erase_same ((k, x) :: m) k
      rw [he] at hr
      simp [Memory.read] at hr
      simp [hr] at h
    have hm : Memory.erase m a = m := by simpa [Memory.erase, hk] using he
    by_cases hl : a < k
    · simp only [Memory.insert, hl, if_true, Memory.wfFrom, Bool.and_eq_true, decide_eq_true_eq, bne_iff_ne]
      exact ⟨⟨⟨hlo, ha⟩, hv⟩, ⟨⟨by omega, h.1.1.2⟩, by simpa using h.1.2⟩, h.2⟩
    · simp only [Memory.insert, hl, if_false, Memory.wfFrom, Bool.and_eq_true, decide_eq_true_eq]
      exact ⟨h.1, ih h.2 hm (by omega)⟩

/-- The empty memory is canonical. -/
theorem Memory.wf_nil : Memory.wf [] = true := rfl

/-- A write keeps the canonical form. -/
theorem Memory.wf_write {m : Memory} {a : Nat} (v : Word) (ha : a < 4096) (h : m.wf = true) :
    (m.write a v).wf = true := by
  unfold Memory.write
  split
  · exact Memory.wfFrom_erase a h
  · next hv =>
    exact Memory.wfFrom_insert (Memory.wfFrom_erase a h) (Memory.erase_erase m a) (Nat.zero_le a) ha hv

theorem State.wf_writeMem {s : State} (a v : Word) (h : s.mem.wf = true) : (s.writeMem a v).mem.wf = true :=
  Memory.wf_write v a.isLt h

/-- A tape byte keeps the canonical form of the image. -/
theorem LoaderState.wf_consume {t : LoaderState} (b : TapeByte) (h : t.img.wf = true) :
    (t.consume b).img.wf = true := by
  have hacc : ∀ u : LoaderState, u.img.wf = true → (u.accept b).img.wf = true := by
    intro u hu
    obtain ⟨ls, la, lw, lo, img⟩ := u
    cases ls with
    | originHigh => exact hu
    | originLow => exact hu
    | dataHigh => exact hu
    | dataLow => exact Memory.wf_write _ (BitVec.isLt _) (Memory.wf_write _ (BitVec.isLt _) hu)
  unfold LoaderState.consume
  split
  · exact h
  · split
    · exact hacc _ h
    · exact hacc _ h

/-- A whole tape keeps the canonical form of the image. -/
theorem LoaderState.wf_consumeAll {t : LoaderState} (bs : List TapeByte) (h : t.img.wf = true) :
    (t.consumeAll bs).img.wf = true := by
  induction bs generalizing t with
  | nil => exact h
  | cons b bs ih => exact ih (LoaderState.wf_consume b h)

/-- load keeps the canonical form. -/
theorem load_wf {stream : Option (List TapeByte)} {m img : Memory} {origin : Word} (h : m.wf = true)
    (hl : load stream m = .ok (img, origin)) : img.wf = true := by
  cases stream with
  | none => simp [load] at hl
  | some bs =>
    have h2 : ((LoaderState.start m).consumeAll bs).img = img := by
      simp only [load, Except.ok.injEq, Prod.mk.injEq] at hl
      exact hl.1
    exact h2 ▸ LoaderState.wf_consumeAll bs h

end Sys2Proof.Machine
end

