-- ==== Sys2Proof/Laws/Ops.lean ====
section
/-! SUPPORT. For each shared operation, what it can do: equations for the parts of a step, and for an answer `next t` the
cases that give it. -/

namespace Sys2Proof.Machine

/-! The parts of a step. -/

theorem beginStep_fetch {s : State} (h : s.cycle = .fetch) :
    beginStep s = { s with cyc := s.cyc + 1, mb := s.readMem s.pc, ir := s.readMem s.pc, pc := s.pc + 1 } := by
  obtain ⟨pc, ac, l, ma, mb, sr, ir, run, cycle, cyc, ins, mem, fault, ss⟩ := s
  subst h
  simp [beginStep, fetchWord, State.setCyc, State.setMb, State.setPc, State.setIr, increment_eq, State.readMem]

theorem beginStep_other {s : State} (h : s.cycle ≠ .fetch) : beginStep s = { s with cyc := s.cyc + 1 } := by
  obtain ⟨pc, ac, l, ma, mb, sr, ir, run, cycle, cyc, ins, mem, fault, ss⟩ := s
  cases cycle <;> first | exact absurd rfl h | rfl

@[simp] theorem beginStep_cycle (s : State) : (beginStep s).cycle = s.cycle := by
  by_cases h : s.cycle = .fetch
  · rw [beginStep_fetch h]
  · rw [beginStep_other h]

/-- A step from a state without FAULT that answers next: the instruction's answer, counted. -/
theorem step_next {s t : State} (h : step s = .next t) :
    s.fault = none ∧
      ∃ u, exec (decodeWord (beginStep s).ir) (beginStep s) = .next u ∧ t = countInstruction s.cycle u := by
  unfold step at h
  split at h
  · cases h
  · next hf =>
    refine ⟨hf, ?_⟩
    cases he : exec (decodeWord (beginStep s).ir) (beginStep s) with
    | next u => exact ⟨u, rfl, by simpa [he, endStep] using h.symm⟩
    | fault f => simp [he, endStep] at h
    | refused r => simp [he, endStep] at h

/-- Without FAULT, a step is the instruction's answer, counted. -/
theorem step_of_exec {s u : State} (hf : s.fault = none)
    (he : exec (decodeWord (beginStep s).ir) (beginStep s) = .next u) :
    step s = .next (countInstruction s.cycle u) := by
  simp [step, hf, he, endStep]

/-- A fault of the instruction is the fault of the step. -/
theorem step_of_exec_fault {s : State} {f : Fault} (hf : s.fault = none)
    (he : exec (decodeWord (beginStep s).ir) (beginStep s) = .fault f) : step s = .fault f := by
  simp [step, hf, he, endStep]

theorem countInstruction_eq (c : Cycle) (s : State) :
    countInstruction c s = { s with ins := s.ins + if s.cycle = .fetch ∧ c ≠ .fetch then 1 else 0 } := by
  unfold countInstruction
  split <;> rfl

/-! The four cycle states. -/

theorem byCycle_fetch {s : State} (h : s.cycle = .fetch) (f d e : State → Answer) : byCycle f d e s = f s := by
  simp [byCycle, h]

theorem byCycle_defer {s : State} (h : s.cycle = .defer) (f d e : State → Answer) : byCycle f d e s = d s := by
  simp [byCycle, h]

theorem byCycle_execute {s : State} (h : s.cycle = .execute) (f d e : State → Answer) :
    byCycle f d e s = e s := by
  simp [byCycle, h]

theorem byCycle_brk {s : State} (h : s.cycle = .brk) (f d e : State → Answer) :
    byCycle f d e s = .next (s.setCycle .fetch) := by
  simp [byCycle, h, breakCycle]

/-- What a meaning built with `byCycle` can answer as a next state. -/
theorem byCycle_next {f d e : State → Answer} {s t : State} (h : byCycle f d e s = .next t) :
    (s.cycle = .fetch ∧ f s = .next t) ∨ (s.cycle = .defer ∧ d s = .next t) ∨
      (s.cycle = .execute ∧ e s = .next t) ∨ (s.cycle = .brk ∧ t = s.setCycle .fetch) := by
  cases hc : s.cycle <;> simp [byCycle, hc] at h
  · exact .inl ⟨rfl, h⟩
  · exact .inr (.inl ⟨rfl, h⟩)
  · exact .inr (.inr (.inl ⟨rfl, h⟩))
  · exact .inr (.inr (.inr ⟨rfl, h.symm⟩))

/-! Operands. -/

/-- R75 on the offset as a word. -/
theorem effectiveAddress_eq (page : Bool) (offset : Offset) (pcn : Word) :
    effectiveAddress page offset pcn =
      if page then (pcn &&& 0o7600) ||| offset.setWidth 12 else offset.setWidth 12 := rfl

theorem isAutoIncrement_iff (a : Word) : isAutoIncrement a = true ↔ 8 ≤ a.toNat ∧ a.toNat ≤ 15 := by
  simp [isAutoIncrement, BitVec.le_def]

/-- Defer through an ordinary cell: the pointer into MA and MB (R105, R106). -/
theorem derefPointer_plain {s : State} (h : isAutoIncrement s.ma = false) :
    derefPointer s = { s with mb := s.readMem s.ma, ma := s.readMem s.ma } := by
  simp [derefPointer, h, State.setMb, State.setMa]

/-- Defer through an auto-increment cell: the pointer incremented, written back, and into MA and MB (R105, R106). -/
theorem derefPointer_auto {s : State} (h : isAutoIncrement s.ma = true) :
    derefPointer s =
      { s with
        mb := s.readMem s.ma + 1
        ma := s.readMem s.ma + 1
        mem := s.mem.write s.ma.toNat (s.readMem s.ma + 1) } := by
  simp [derefPointer, h, State.setMb, State.setMa, State.writeMem, State.setMem, increment_eq]

/-- What Defer leaves in memory: only an auto-increment pointer cell has changed (R105). -/
theorem derefPointer_readMem (s : State) (b : Word) :
    (derefPointer s).readMem b =
      if isAutoIncrement s.ma = true ∧ b = s.ma then s.readMem s.ma + 1 else s.readMem b := by
  cases ha : isAutoIncrement s.ma
  · rw [derefPointer_plain ha]; rfl
  · rw [derefPointer_auto ha]
    have h := State.readMem_writeMem s s.ma b (s.readMem s.ma + 1)
    simp only [true_and]
    exact h

theorem derefPointer_wf {s : State} (h : s.mem.wf = true) : (derefPointer s).mem.wf = true := by
  cases ha : isAutoIncrement s.ma
  · rw [derefPointer_plain ha]; exact h
  · rw [derefPointer_auto ha]; exact Memory.wf_write _ s.ma.isLt h

/-! The shapes of a meaning. -/

theorem memoryReference_fetch {s : State} (h : s.cycle = .fetch) (i p : Bool) (o : Offset) (f : State → State) :
    memoryReference i p o f s =
      .next { s with ma := effectiveAddress p o s.pc, cycle := if i then .defer else .execute } :=
  byCycle_fetch h _ _ _

theorem memoryReference_defer {s : State} (h : s.cycle = .defer) (i p : Bool) (o : Offset) (f : State → State) :
    memoryReference i p o f s = .next ((derefPointer s).setCycle .execute) :=
  byCycle_defer h _ _ _

theorem memoryReference_execute {s : State} (h : s.cycle = .execute) (i p : Bool) (o : Offset)
    (f : State → State) :
    memoryReference i p o f s = .next ((f (loadOperand s)).setCycle .fetch) :=
  byCycle_execute h _ _ _

theorem execJmp_fetch {s : State} (h : s.cycle = .fetch) (i p : Bool) (o : Offset) :
    execJmp i p o s = .next (jmpFetch i p o s) :=
  byCycle_fetch h _ _ _

theorem execJmp_defer {s : State} (h : s.cycle = .defer) (i p : Bool) (o : Offset) :
    execJmp i p o s = .next (jmpDefer s) :=
  byCycle_defer h _ _ _

theorem operate_fetch {s : State} (h : s.cycle = .fetch) (c : BitVec 8) (f : State → State) :
    operate c f s = .next ((f (latchControl c s)).setCycle .fetch) :=
  byCycle_fetch h _ _ _

theorem unimplemented_fetch {s : State} (h : s.cycle = .fetch) (c : BitVec 8) :
    unimplemented c s = .next ((latchControl c s).setFault (some .notImplemented)) :=
  byCycle_fetch h _ _ _

/-- The address latched for an OPR or IOT word is that of the whole word (R73, R102). -/
theorem latchControl_word (w : Word) (s : State) :
    latchControl (w.setWidth 8) s = s.setMa (effectiveAddress (pageBit w) (offsetField w) s.pc) := by
  simp only [latchControl, latchAddress, pageBit_setWidth, offsetField_of_control]

/-- AND, TAD, ISZ, DCA, JMS: what the shared path answers in each cycle state. -/
theorem memoryReference_next {i p : Bool} {o : Offset} {f : State → State} {s t : State}
    (h : memoryReference i p o f s = .next t) :
    (s.cycle = .fetch ∧ t = (latchAddress p o s).setCycle (if i then .defer else .execute)) ∨
      (s.cycle = .defer ∧ t = (derefPointer s).setCycle .execute) ∨
      (s.cycle = .execute ∧ t = (f (loadOperand s)).setCycle .fetch) ∨
      (s.cycle = .brk ∧ t = s.setCycle .fetch) := by
  rcases byCycle_next h with ⟨hc, h⟩ | ⟨hc, h⟩ | ⟨hc, h⟩ | ⟨hc, h⟩
  · exact .inl ⟨hc, by simpa using h.symm⟩
  · exact .inr (.inl ⟨hc, by simpa [deferToExecute] using h.symm⟩)
  · exact .inr (.inr (.inl ⟨hc, by simpa using h.symm⟩))
  · exact .inr (.inr (.inr ⟨hc, h⟩))

/-- OPR words of Groups 1 and 2: what the shared path answers. -/
theorem operate_next {c : BitVec 8} {f : State → State} {s t : State} (h : operate c f s = .next t) :
    (s.cycle = .fetch ∧ t = (f (latchControl c s)).setCycle .fetch) ∨
      (s.cycle = .defer ∧ t = (derefPointer s).setCycle .execute) ∨
      (s.cycle = .brk ∧ t = s.setCycle .fetch) := by
  rcases byCycle_next h with ⟨hc, h⟩ | ⟨hc, h⟩ | ⟨hc, h⟩ | ⟨hc, h⟩
  · exact .inl ⟨hc, by simpa using h.symm⟩
  · exact .inr (.inl ⟨hc, by simpa [deferToExecute] using h.symm⟩)
  · simp [raiseInternalInvariantViolation] at h
  · exact .inr (.inr ⟨hc, h⟩)

/-- IOT and the third group: what the shared path answers. -/
theorem unimplemented_next {c : BitVec 8} {s t : State} (h : unimplemented c s = .next t) :
    (s.cycle = .fetch ∧ t = (latchControl c s).setFault (some .notImplemented)) ∨
      (s.cycle = .defer ∧ t = (derefPointer s).setCycle .execute) ∨
      (s.cycle = .brk ∧ t = s.setCycle .fetch) := by
  rcases byCycle_next h with ⟨hc, h⟩ | ⟨hc, h⟩ | ⟨hc, h⟩ | ⟨hc, h⟩
  · exact .inl ⟨hc, by simpa [raiseNotImplemented] using h.symm⟩
  · exact .inr (.inl ⟨hc, by simpa [deferToExecute] using h.symm⟩)
  · simp [raiseInternalInvariantViolation] at h
  · exact .inr (.inr ⟨hc, h⟩)

/-- JMP: what it answers. -/
theorem execJmp_next {i p : Bool} {o : Offset} {s t : State} (h : execJmp i p o s = .next t) :
    (s.cycle = .fetch ∧ t = jmpFetch i p o s) ∨ (s.cycle = .defer ∧ t = jmpDefer s) ∨
      (s.cycle = .brk ∧ t = s.setCycle .fetch) := by
  rcases byCycle_next h with ⟨hc, h⟩ | ⟨hc, h⟩ | ⟨hc, h⟩ | ⟨hc, h⟩
  · exact .inl ⟨hc, by simpa using h.symm⟩
  · exact .inr (.inl ⟨hc, by simpa using h.symm⟩)
  · simp [raiseInternalInvariantViolation] at h
  · exact .inr (.inr ⟨hc, h⟩)

/-! The Execute part of each instruction that has one, with its operand read. -/

theorem andEffect_loadOperand (s : State) :
    andEffect (loadOperand s) = { s with mb := s.readMem s.ma, ac := s.ac &&& s.readMem s.ma } := rfl

theorem tadEffect_loadOperand (s : State) :
    tadEffect (loadOperand s) =
      { s with
        mb := s.readMem s.ma
        ac := s.ac + s.readMem s.ma
        l := if 4096 ≤ s.ac.toNat + (s.readMem s.ma).toNat then 1 - s.l else s.l } := by
  simp only [← addWord_eq]
  rfl

theorem iszEffect_loadOperand (s : State) :
    iszEffect (loadOperand s) =
      { s with
        mb := s.readMem s.ma + 1
        pc := if s.readMem s.ma + 1 = 0 then s.pc + 1 else s.pc
        mem := s.mem.write s.ma.toNat (s.readMem s.ma + 1) } := by
  simp only [← increment_eq]
  by_cases h : increment (s.readMem s.ma) = 0
  · have ht : testZero ((loadOperand s).setMb (increment (loadOperand s).mb)).mb = true := beq_iff_eq.2 h
    simp only [iszEffect, ht, applyIf_true, h, if_true]
    simp only [loadOperand, State.setMb_mb, h]
    rfl
  · have ht : testZero ((loadOperand s).setMb (increment (loadOperand s).mb)).mb = false := beq_false_of_ne h
    simp only [iszEffect, ht, applyIf_false, h, if_false]
    rfl

theorem dcaEffect_loadOperand (s : State) :
    dcaEffect (loadOperand s) =
      { s with mb := s.readMem s.ma, ac := 0, mem := s.mem.write s.ma.toNat s.ac } := rfl

theorem jmsEffect_loadOperand (s : State) :
    jmsEffect (loadOperand s) =
      { s with mb := s.readMem s.ma, pc := s.ma + 1, mem := s.mem.write s.ma.toNat s.pc } := by
  simp only [← increment_eq]
  rfl

/-! Runs. -/

theorem applyOps_append (a b : List DriverOp) (s : State) : applyOps (a ++ b) s = applyOps b (applyOps a s) := by
  induction a generalizing s with
  | nil => rfl
  | cons op a ih => exact ih (op.apply s)

theorem runSchedule_nil_of_test {s : State} (h : runTest s = true) : runSchedule [] s = .running s := by
  simp [runSchedule, h]

theorem runSchedule_nil_of_not_test {s : State} (h : runTest s = false) : runSchedule [] s = .ended s := by
  simp [runSchedule, h]

/-- The driver's operations make the test fail: the run ends in the state they leave. -/
theorem runSchedule_cons_ended {s : State} {ops : List DriverOp} (h : runTest (applyOps ops s) = false)
    (rest : List (List DriverOp)) : runSchedule (ops :: rest) s = .ended (applyOps ops s) := by
  simp [runSchedule, h]

theorem runSchedule_cons_step {s t : State} {ops : List DriverOp} (h : runTest (applyOps ops s) = true)
    (ht : step (applyOps ops s) = .next t) (rest : List (List DriverOp)) :
    runSchedule (ops :: rest) s = runSchedule rest t := by
  simp [runSchedule, h, ht]

/-- A run that has not ended goes on from where it stands. -/
theorem runSchedule_append {a : List (List DriverOp)} {s t : State} (h : runSchedule a s = .running t)
    (b : List (List DriverOp)) : runSchedule (a ++ b) s = runSchedule b t := by
  induction a generalizing s with
  | nil =>
    cases hr : runTest s <;> simp [runSchedule, hr] at h
    rw [← h, List.nil_append]
  | cons ops a ih =>
    cases hr : runTest (applyOps ops s)
    · simp [runSchedule, hr] at h
    · cases hs : step (applyOps ops s) with
      | next u =>
        rw [runSchedule_cons_step hr hs] at h
        rw [List.cons_append, runSchedule_cons_step hr hs]
        exact ih h
      | fault f => simp [runSchedule, hr, hs] at h
      | refused r => simp [runSchedule, hr, hs] at h

theorem runFor_stopped {s : State} (h : runTest s = false) (fuel : Nat) : runFor fuel s = .ended s := by
  cases fuel with
  | zero => exact runSchedule_nil_of_not_test h
  | succ n => exact runSchedule_cons_ended (ops := []) h _

theorem runFor_step {s t : State} (h : runTest s = true) (ht : step s = .next t) (fuel : Nat) :
    runFor (fuel + 1) s = runFor fuel t :=
  runSchedule_cons_step (ops := []) h ht _

end Sys2Proof.Machine
end

