-- ==== Sys2Proof/Laws/Exec.lean ====
section
/-! SUPPORT. What every instruction does in Fetch, Defer, Execute and Break, said once for all of them
(spec/40_cycle_engine.md R103 to R109, R115). -/

namespace Sys2Proof.Machine

/-- The instructions that jump in Defer. -/
def isJmp : Instr → Bool
  | .jmp _ _ _ => true
  | .and _ _ _ | .tad _ _ _ | .isz _ _ _ | .dca _ _ _ | .jms _ _ _ | .iot _ | .opr1 _ | .nop | .cla1 | .cll
  | .cma | .cml | .rar | .ral | .rtr | .rtl | .rot2Alone | .iac | .opr2 _ | .sma | .sza | .snl | .spa | .sna
  | .szl | .skp | .cla2 | .osr | .hlt | .nop2 | .opr3 _ | .cia | .stl | .glk | .sta | .las => false

/-- The Execute part of an instruction; none for those that never reach Execute (R115). -/
def executePart : Instr → Option (State → State)
  | .and _ _ _ => some andEffect
  | .tad _ _ _ => some tadEffect
  | .isz _ _ _ => some iszEffect
  | .dca _ _ _ => some dcaEffect
  | .jms _ _ _ => some jmsEffect
  | .jmp _ _ _ | .iot _ | .opr1 _ | .nop | .cla1 | .cll | .cma | .cml | .rar | .ral | .rtr | .rtl | .rot2Alone
  | .iac | .opr2 _ | .sma | .sza | .snl | .spa | .sna | .szl | .skp | .cla2 | .osr | .hlt | .nop2 | .opr3 _
  | .cia | .stl | .glk | .sta | .las => none

/-- The Fetch part of AND, TAD, ISZ, DCA, JMS. -/
def memRefFetch (indirect page : Bool) (offset : Offset) (s : State) : State :=
  (latchAddress page offset s).setCycle (if indirect then .defer else .execute)

/-- The Fetch part of an OPR word of Group 1 or 2. -/
def operateFetch (c : BitVec 8) (f : State → State) (s : State) : State := (f (latchControl c s)).setCycle .fetch

/-- The Fetch part of every instruction. -/
def fetchPart : Instr → State → State
  | .and i p o => memRefFetch i p o
  | .tad i p o => memRefFetch i p o
  | .isz i p o => memRefFetch i p o
  | .dca i p o => memRefFetch i p o
  | .jms i p o => memRefFetch i p o
  | .jmp i p o => jmpFetch i p o
  | .iot c => fun s => (latchControl (c.setWidth 8) s).setFault (some .notImplemented)
  | .opr3 b => fun s => (latchControl (b ++ 1#1) s).setFault (some .notImplemented)
  | .opr1 g => operateFetch g.control (group1Sequence g)
  | .opr2 g => operateFetch g.control (group2Sequence g)
  | .nop => operateFetch 0o000 id
  | .cla1 => operateFetch 0o200 clearAc
  | .cll => operateFetch 0o100 clearLink
  | .cma => operateFetch 0o040 complementAc
  | .cml => operateFetch 0o020 complementLink
  | .rar => operateFetch 0o010 rotateRight
  | .ral => operateFetch 0o004 rotateLeft
  | .rtr => operateFetch 0o012 (fun s => rotateRight (rotateRight s))
  | .rtl => operateFetch 0o006 (fun s => rotateLeft (rotateLeft s))
  | .rot2Alone => operateFetch 0o002 id
  | .iac => operateFetch 0o001 incrementAc
  | .sma => operateFetch 0o100 (fun s => applyIf (testMinus s.ac) skipNext s)
  | .sza => operateFetch 0o040 (fun s => applyIf (testZero s.ac) skipNext s)
  | .snl => operateFetch 0o020 (fun s => applyIf (testLink s.l) skipNext s)
  | .spa => operateFetch 0o110 (fun s => applyIf (!testMinus s.ac) skipNext s)
  | .sna => operateFetch 0o050 (fun s => applyIf (!testZero s.ac) skipNext s)
  | .szl => operateFetch 0o030 (fun s => applyIf (!testLink s.l) skipNext s)
  | .skp => operateFetch 0o010 skipNext
  | .cla2 => operateFetch 0o200 clearAc
  | .osr => operateFetch 0o004 orSwitches
  | .hlt => operateFetch 0o002 haltRun
  | .nop2 => operateFetch 0o000 id
  | .cia => operateFetch 0o041 (fun s => incrementAc (complementAc s))
  | .stl => operateFetch 0o120 (fun s => complementLink (clearLink s))
  | .glk => operateFetch 0o204 (fun s => rotateLeft (clearAc s))
  | .sta => operateFetch 0o240 (fun s => complementAc (clearAc s))
  | .las => operateFetch 0o204 (fun s => orSwitches (clearAc s))

/-- Every instruction is its parts in the four cycle states (R100). -/
theorem exec_byCycle (i : Instr) (s : State) :
    exec i s =
      byCycle (fun s => .next (fetchPart i s))
        (fun s => .next (if isJmp i then jmpDefer s else (derefPointer s).setCycle .execute))
        (fun s =>
          match executePart i with
          | some f => .next ((f (loadOperand s)).setCycle .fetch)
          | none => .fault .internalInvariantViolation) s := by
  cases i <;> rfl

/-- Fetch, for every instruction. -/
theorem exec_fetch {s : State} (h : s.cycle = .fetch) (i : Instr) : exec i s = .next (fetchPart i s) :=
  (exec_byCycle i s).trans (byCycle_fetch h _ _ _)

/-- Defer, for every instruction. -/
theorem exec_defer {s : State} (h : s.cycle = .defer) (i : Instr) :
    exec i s = .next (if isJmp i then jmpDefer s else (derefPointer s).setCycle .execute) :=
  (exec_byCycle i s).trans (byCycle_defer h _ _ _)

/-- Execute, for every instruction. -/
theorem exec_execute {s : State} (h : s.cycle = .execute) (i : Instr) :
    exec i s =
      match executePart i with
      | some f => .next ((f (loadOperand s)).setCycle .fetch)
      | none => .fault .internalInvariantViolation :=
  (exec_byCycle i s).trans (byCycle_execute h _ _ _)

/-- Break, for every instruction. -/
theorem exec_brk {s : State} (h : s.cycle = .brk) (i : Instr) : exec i s = .next (s.setCycle .fetch) :=
  (exec_byCycle i s).trans (byCycle_brk h _ _ _)

/-- No instruction is refused. -/
theorem exec_not_refused (i : Instr) (s : State) (r : Refusal) : exec i s ≠ .refused r := by
  intro h
  cases hc : s.cycle with
  | fetch => rw [exec_fetch hc] at h; cases h
  | defer => rw [exec_defer hc] at h; cases h
  | execute => rw [exec_execute hc] at h; cases hp : executePart i <;> rw [hp] at h <;> cases h
  | brk => rw [exec_brk hc] at h; cases h

end Sys2Proof.Machine
end

