-- ==== Sys2Proof/Laws/PerInstr.lean ====
section
/-! SUPPORT. Facts about every instruction, one lemma for each constructor. The family TableRow: the word of an
instruction has the match bits of its row of spec/opcode_table.json under the row's mask. -/

namespace Sys2Proof.Laws.TableRow

/-- The match and the mask of an instruction's row, as the table gives them. -/
def row : Instr → Word × Word
  | .and _ _ _ => (0o0000, 0o7000)
  | .tad _ _ _ => (0o1000, 0o7000)
  | .isz _ _ _ => (0o2000, 0o7000)
  | .dca _ _ _ => (0o3000, 0o7000)
  | .jms _ _ _ => (0o4000, 0o7000)
  | .jmp _ _ _ => (0o5000, 0o7000)
  | .iot _ => (0o6000, 0o7000)
  | .opr1 _ => (0o7000, 0o7400)
  | .nop => (0o7000, 0o7777)
  | .cla1 => (0o7200, 0o7600)
  | .cll => (0o7100, 0o7500)
  | .cma => (0o7040, 0o7440)
  | .cml => (0o7020, 0o7420)
  | .rar => (0o7010, 0o7410)
  | .ral => (0o7004, 0o7404)
  | .rtr => (0o7012, 0o7412)
  | .rtl => (0o7006, 0o7406)
  | .rot2Alone => (0o7002, 0o7416)
  | .iac => (0o7001, 0o7401)
  | .opr2 _ => (0o7400, 0o7401)
  | .sma => (0o7500, 0o7511)
  | .sza => (0o7440, 0o7451)
  | .snl => (0o7420, 0o7431)
  | .spa => (0o7510, 0o7511)
  | .sna => (0o7450, 0o7451)
  | .szl => (0o7430, 0o7431)
  | .skp => (0o7410, 0o7571)
  | .cla2 => (0o7600, 0o7601)
  | .osr => (0o7404, 0o7405)
  | .hlt => (0o7402, 0o7403)
  | .nop2 => (0o7400, 0o7777)
  | .opr3 _ => (0o7401, 0o7401)
  | .cia => (0o7041, 0o7777)
  | .stl => (0o7120, 0o7777)
  | .glk => (0o7204, 0o7777)
  | .sta => (0o7240, 0o7777)
  | .las => (0o7604, 0o7777)

/-- The encoded word agrees with the row. -/
def Statement (i : Instr) : Prop := encode i &&& (row i).2 = (row i).1

theorem memRefWord_opcode (op : BitVec 3) (i p : Bool) (o : Offset) :
    memRefWord op i p o &&& 0o7000 = op.setWidth 12 <<< 9 := by
  apply BitVec.eq_of_getLsbD_eq
  intro j hj
  simp only [memRefWord, BitVec.getLsbD_and, BitVec.getLsbD_append, BitVec.getLsbD_shiftLeft,
    BitVec.getLsbD_setWidth]
  interval_cases j <;> simp

theorem and (i p : Bool) (o : Offset) : Statement (.and i p o) := memRefWord_opcode 0 i p o
theorem tad (i p : Bool) (o : Offset) : Statement (.tad i p o) := memRefWord_opcode 1 i p o
theorem isz (i p : Bool) (o : Offset) : Statement (.isz i p o) := memRefWord_opcode 2 i p o
theorem dca (i p : Bool) (o : Offset) : Statement (.dca i p o) := memRefWord_opcode 3 i p o
theorem jms (i p : Bool) (o : Offset) : Statement (.jms i p o) := memRefWord_opcode 4 i p o
theorem jmp (i p : Bool) (o : Offset) : Statement (.jmp i p o) := memRefWord_opcode 5 i p o

theorem iot (c : BitVec 9) : Statement (.iot c) := by
  unfold Statement
  revert c; decide

theorem opr1 (ops : Group1) : Statement (.opr1 ops) := by
  unfold Statement
  obtain ⟨a, b, c, d, e, f, g, h⟩ := ops
  revert a b c d e f g h; decide

theorem opr2 (ops : Group2) : Statement (.opr2 ops) := by
  unfold Statement
  obtain ⟨a, b, c, d, e, f, g⟩ := ops
  revert a b c d e f g; decide

theorem opr3 (b : BitVec 7) : Statement (.opr3 b) := by
  unfold Statement
  revert b; decide

theorem nop : Statement .nop := rfl
theorem cla1 : Statement .cla1 := rfl
theorem cll : Statement .cll := rfl
theorem cma : Statement .cma := rfl
theorem cml : Statement .cml := rfl
theorem rar : Statement .rar := rfl
theorem ral : Statement .ral := rfl
theorem rtr : Statement .rtr := rfl
theorem rtl : Statement .rtl := rfl
theorem rot2Alone : Statement .rot2Alone := rfl
theorem iac : Statement .iac := rfl
theorem sma : Statement .sma := rfl
theorem sza : Statement .sza := rfl
theorem snl : Statement .snl := rfl
theorem spa : Statement .spa := rfl
theorem sna : Statement .sna := rfl
theorem szl : Statement .szl := rfl
theorem skp : Statement .skp := rfl
theorem cla2 : Statement .cla2 := rfl
theorem osr : Statement .osr := rfl
theorem hlt : Statement .hlt := rfl
theorem nop2 : Statement .nop2 := rfl
theorem cia : Statement .cia := rfl
theorem stl : Statement .stl := rfl
theorem glk : Statement .glk := rfl
theorem sta : Statement .sta := rfl
theorem las : Statement .las := rfl

end Sys2Proof.Laws.TableRow
end

