-- ==== Sys2Proof/Laws/Step.lean ====
section
/-! SUPPORT. What one step can do, said once: an equation for Fetch, Defer and Execute, and what the Fetch part of an
instruction leaves alone (spec/40_cycle_engine.md R100 to R111). -/

namespace Sys2Proof.Machine

/-- A change of AC and L alone. -/
def ChangesAcL (f : State → State) : Prop := ∀ s, ∃ a l, f s = { s with ac := a, l := l }

theorem ChangesAcL.comp {f g : State → State} (hf : ChangesAcL f) (hg : ChangesAcL g) :
    ChangesAcL (fun s => f (g s)) := by
  intro s
  obtain ⟨a, l, h⟩ := hg s
  obtain ⟨a', l', h'⟩ := hf (g s)
  exact ⟨a', l', h'.trans (by rw [h])⟩

theorem ChangesAcL.applyIf {f : State → State} (hf : ChangesAcL f) (b : Bool) : ChangesAcL (applyIf b f) := by
  intro s
  cases b
  · exact ⟨s.ac, s.l, rfl⟩
  · exact hf s

/-- Group 1 changes AC and L alone (R186). -/
theorem group1Sequence_changesAcL (g : Group1) : ChangesAcL (group1Sequence g) := by
  have rr : ChangesAcL rotateRight := fun _ => ⟨_, _, rfl⟩
  have rl : ChangesAcL rotateLeft := fun _ => ⟨_, _, rfl⟩
  have c1 : ChangesAcL clearAc := fun _ => ⟨_, _, rfl⟩
  have c2 : ChangesAcL clearLink := fun _ => ⟨_, _, rfl⟩
  have c3 : ChangesAcL complementAc := fun _ => ⟨_, _, rfl⟩
  have c4 : ChangesAcL complementLink := fun _ => ⟨_, _, rfl⟩
  have c5 : ChangesAcL incrementAc := fun _ => ⟨_, _, rfl⟩
  exact (rl.applyIf _).comp <| (rl.applyIf _).comp <| (rr.applyIf _).comp <| (rr.applyIf _).comp <|
    (c5.applyIf _).comp <| (c4.applyIf _).comp <| (c3.applyIf _).comp <| (c2.applyIf _).comp (c1.applyIf _)

/-- Group 2 changes PC, AC and RUN alone, and PC only by the skip (R210, R218). -/
theorem group2Sequence_frame (g : Group2) (s : State) :
    ∃ a r, group2Sequence g s =
      { s with pc := if group2Skip g s.ac s.l then s.pc + 1 else s.pc, ac := a, run := r } := by
  obtain ⟨x, b, c, d, e, f, i⟩ := g
  simp only [group2Sequence, applyIf, ← increment_eq]
  cases group2Skip ⟨x, b, c, d, e, f, i⟩ s.ac s.l <;> cases x <;> cases f <;> cases i <;> exact ⟨_, _, rfl⟩

theorem derefPointer_cyc (s : State) (n : Nat) :
    derefPointer { s with cyc := n } = { derefPointer s with cyc := n } := by
  unfold derefPointer
  cases isAutoIncrement s.ma <;> rfl

theorem derefPointer_ins (s : State) : (derefPointer s).ins = s.ins := by
  unfold derefPointer
  cases isAutoIncrement s.ma <;> rfl

/-- Fetch: the word is read and PC advances, then the Fetch part of its instruction. -/
theorem step_fetch {s : State} (hf : s.fault = none) (h : s.cycle = .fetch) :
    step s =
      .next (fetchPart (decodeWord (s.readMem s.pc))
        { s with cyc := s.cyc + 1, mb := s.readMem s.pc, ir := s.readMem s.pc, pc := s.pc + 1 }) := by
  rw [step_of_exec hf (exec_fetch (by simp [h]) _), countInstruction_eq, beginStep_fetch h]
  simp [h]

/-- Defer: the pointer, and for JMP the jump and the end of the instruction. -/
theorem step_defer {s : State} (hf : s.fault = none) (h : s.cycle = .defer) :
    step s =
      .next
        (if isJmp (decodeWord s.ir) then
          { derefPointer s with cyc := s.cyc + 1, ins := s.ins + 1, pc := (derefPointer s).mb, cycle := .fetch }
        else { derefPointer s with cyc := s.cyc + 1, cycle := .execute }) := by
  rw [step_of_exec hf (exec_defer (by simp [h]) _), countInstruction_eq, beginStep_other (by simp [h])]
  simp only [jmpDefer, derefPointer_cyc]
  cases isJmp (decodeWord s.ir)
  · simp [State.setCycle]
  · simp [State.setCycle, State.setPc, h, derefPointer_ins]

theorem executePart_cyc {i : Instr} {f : State → State} (hp : executePart i = some f) (s : State) (n : Nat) :
    f (loadOperand { s with cyc := n }) = { f (loadOperand s) with cyc := n } := by
  cases i <;> simp only [executePart, reduceCtorEq, Option.some.injEq] at hp <;> subst hp <;>
    first | rfl | rw [iszEffect_loadOperand, iszEffect_loadOperand]; rfl

theorem executePart_ins {i : Instr} {f : State → State} (hp : executePart i = some f) (s : State) :
    (f (loadOperand s)).ins = s.ins := by
  cases i <;> simp only [executePart, reduceCtorEq, Option.some.injEq] at hp <;> subst hp <;>
    first | rfl | rw [iszEffect_loadOperand]

/-- Execute: the operand and the Execute part, and the end of the instruction. -/
theorem step_execute {s : State} (hf : s.fault = none) (h : s.cycle = .execute) :
    step s =
      match executePart (decodeWord s.ir) with
      | some f => .next { f (loadOperand s) with cyc := s.cyc + 1, ins := s.ins + 1, cycle := .fetch }
      | none => .fault .internalInvariantViolation := by
  have hb := beginStep_other (s := s) (by simp [h])
  have hir : (beginStep s).ir = s.ir := by rw [hb]
  have he := exec_execute (s := beginStep s) (by simp [h]) (decodeWord s.ir)
  cases hp : executePart (decodeWord s.ir) with
  | none =>
    rw [hp] at he
    exact step_of_exec_fault hf (by rw [hir]; exact he)
  | some f =>
    rw [hp] at he
    rw [step_of_exec hf (by rw [hir]; exact he), hb, countInstruction_eq]
    rw [executePart_cyc hp s (s.cyc + 1)]
    simp [State.setCycle, executePart_ins hp, h]

end Sys2Proof.Machine
end

