-- ==== Sys2Proof/Tests/Slice0.lean ====
section
/-! SUPPORT. Tests of the model against the spec's own vectors (spec/95_test_vectors.md; the section stands in each
comment), and for every statement with hypotheses a concrete state that meets them. -/

namespace Sys2Proof.Tests

open Sys2Proof Sys2Proof.Machine Sys2Proof.Claims

/-! The small states. -/

/-- Launched, with the word `w` at 0o200 about to be fetched. -/
def fetching (w ac : Word) (l : Link) : State :=
  { State.reset with pc := 0o200, ac := ac, l := l, run := true, mem := [(0o200, w)] }

/-- In Defer of the word `w`, fetched at 0o200, with the pointer cell `a` holding `p`. -/
def deferring (w a p : Word) : State :=
  { State.reset with pc := 0o201, run := true, cycle := .defer, ir := w, ma := a, mem := [(a.toNat, p)], cyc := 1 }

/-- In Execute of the word `w`, fetched at 0o200, with the operand cell `a` holding `v`. -/
def executing (w ac : Word) (l : Link) (a v : Word) : State :=
  { State.reset with
    pc := 0o201, ac := ac, l := l, run := true, cycle := .execute, ir := w, ma := a, mem := [(a.toNat, v)], cyc := 1 }

/-- In Break, which no step reaches. -/
def breaking : State := { State.reset with cycle := .brk }

/-- What a next state holds. -/
def nextOf {α : Type} (f : State → α) : Answer → Option α
  | .next t => some (f t)
  | .fault _ => none
  | .refused _ => none

/-- AC and L. -/
def acL (s : State) : Word × Link := (s.ac, s.l)

/-- PC, AC and RUN. -/
def pcAcRun (s : State) : Word × Word × Bool := (s.pc, s.ac, s.run)

/-! WellFormed refuses a combination whose word the opcode table names. -/

theorem smoke_opr1_named_word_is_ill_formed :
    (Instr.opr1 { cla := true }).wellFormed = false ∧ (Instr.opr1 { cll := true, cml := true }).wellFormed = false ∧
      (Instr.opr1 { cla := true, cll := true }).wellFormed = true := by decide

theorem smoke_opr2_named_word_is_ill_formed :
    (Instr.opr2 { hlt := true }).wellFormed = false ∧ (Instr.opr2 { cla := true, osr := true }).wellFormed = false ∧
      (Instr.opr2 { zero := true, link := true }).wellFormed = true := by decide

/-! Decoding, every constructor: words written from the formats and bit values of spec/30_encoding.md R71, R72, R78 to
R81, R87. -/

theorem test_decode_memory_reference :
    decodeWord 0b000_0_1_0101000 = .and false true 0o050 ∧ decodeWord 0b001_1_0_0001010 = .tad true false 0o012 ∧
    decodeWord 0b010_0_0_1111111 = .isz false false 0o177 ∧ decodeWord 0b011_1_1_0000000 = .dca true true 0 ∧
    decodeWord 0b100_1_1_0001000 = .jms true true 0o010 ∧ decodeWord 0b101_0_1_1111111 = .jmp false true 0o177 := by
  decide

theorem test_decode_iot : decodeWord 0b110_000_011_010 = .iot 0o032 ∧ decodeWord 0b110_111_111_111 = .iot 0o777 := by
  decide

theorem test_decode_group1 :
    decodeWord 0b111_000_000_000 = .nop ∧ decodeWord 0b111_010_000_000 = .cla1 ∧ decodeWord 0b111_001_000_000 = .cll ∧
    decodeWord 0b111_000_100_000 = .cma ∧ decodeWord 0b111_000_010_000 = .cml ∧ decodeWord 0b111_000_001_000 = .rar ∧
    decodeWord 0b111_000_000_100 = .ral ∧ decodeWord 0b111_000_001_010 = .rtr ∧ decodeWord 0b111_000_000_110 = .rtl ∧
    decodeWord 0b111_000_000_010 = .rot2Alone ∧ decodeWord 0b111_000_000_001 = .iac ∧
    decodeWord 0b111_011_000_001 = .opr1 { cla := true, cll := true, iac := true } := by decide

theorem test_decode_group2 :
    decodeWord 0b111_101_000_000 = .sma ∧ decodeWord 0b111_100_100_000 = .sza ∧ decodeWord 0b111_100_010_000 = .snl ∧
    decodeWord 0b111_101_001_000 = .spa ∧ decodeWord 0b111_100_101_000 = .sna ∧ decodeWord 0b111_100_011_000 = .szl ∧
    decodeWord 0b111_100_001_000 = .skp ∧ decodeWord 0b111_110_000_000 = .cla2 ∧ decodeWord 0b111_100_000_100 = .osr ∧
    decodeWord 0b111_100_000_010 = .hlt ∧ decodeWord 0b111_100_000_000 = .nop2 ∧
    decodeWord 0b111_110_000_110 = .opr2 { cla := true, osr := true, hlt := true } := by decide

theorem test_decode_third_group :
    decodeWord 0b111_100_000_001 = .opr3 0 ∧ decodeWord 0b111_110_000_001 = .opr3 0b1000000 := by decide

theorem test_decode_pseudo_mnemonics :
    decodeWord 0b111_000_100_001 = .cia ∧ decodeWord 0b111_001_010_000 = .stl ∧ decodeWord 0b111_010_000_100 = .glk ∧
    decodeWord 0b111_010_100_000 = .sta ∧ decodeWord 0b111_110_000_100 = .las := by decide

/-- A number with a bit above bit 11 is no word (R70). -/
theorem test_decode_too_wide :
    decodeNumber 0o10000 = .error .tooWide ∧ decodeTableWord 16 0o17000 = none ∧
      decodeTableWord 12 0o7402 = some .hlt := by decide

/-- The effective addresses of section 2.1. -/
theorem test_effective_address :
    effectiveAddress true 0o034 0o0201 = 0o0234 ∧ effectiveAddress true 0o177 0o0200 = 0o0377 ∧
      effectiveAddress true 0o005 0o0000 = 0o0005 ∧ effectiveAddress false 0o177 0o7601 = 0o0177 := by decide

/-! Memory reference, section 2.2 and 2.3. -/

theorem test_and : nextOf acL (step (executing 0o0250 0o7070 0 0o250 0o0707)) = some (0o0000, 0) := by decide

theorem test_tad_carry_sets_link :
    nextOf acL (step (executing 0o1250 0o7777 0 0o250 0o0001)) = some (0o0000, 1) := by decide

theorem test_tad_carry_toggles_link :
    nextOf acL (step (executing 0o1250 0o7777 1 0o250 0o7777)) = some (0o7776, 0) := by decide

theorem test_isz_to_zero_skips :
    nextOf (fun t => (t.pc, t.readMem 0o250)) (step (executing 0o2250 0 0 0o250 0o7777)) = some (0o0202, 0) := by
  decide

theorem test_isz_to_7777_does_not_skip :
    nextOf (fun t => (t.pc, t.readMem 0o250)) (step (executing 0o2250 0 0 0o250 0o7776)) = some (0o0201, 0o7777) := by
  decide

theorem test_dca :
    nextOf (fun t => (t.ac, t.mb, t.readMem 0o250)) (step (executing 0o3250 0o1234 1 0o250 0o5555)) =
      some (0o0000, 0o5555, 0o1234) := by decide

/-- JMS to 7777 wraps. -/
theorem test_jms_wraps :
    nextOf (fun t => (t.pc, t.readMem 0o7777))
      (step { executing 0o4377 0 0 0o7777 0 with pc := 0o7601 }) = some (0o0000, 0o7601) := by decide

/-- One step, not counted as an instruction. -/
theorem test_jmp_direct :
    nextOf (fun t => (t.pc, t.ma, t.cyc, t.ins)) (step (fetching 0o5250 0 0)) = some (0o0250, 0o0250, 1, 0) := by decide

theorem test_jmp_through_auto_increment :
    nextOf (fun t => (t.pc, t.mb, t.readMem 0o10, t.cycle)) (step (deferring 0o5410 0o10 0o377)) =
      some (0o0400, 0o0400, 0o0400, .fetch) := by decide

/-- The pointer 7777 wraps to 0. -/
theorem test_defer_wraps_pointer :
    nextOf (fun t => (t.ma, t.readMem 0o12)) (step (deferring 0o1412 0o12 0o7777)) = some (0o0000, 0o0000) := by decide

/-- Cells 0o20 and 0o7 are just outside the range. -/
theorem test_defer_outside_range :
    nextOf (fun t => (t.ma, t.readMem 0o20)) (step (deferring 0o1420 0o20 0o300)) = some (0o0300, 0o0300) ∧
      nextOf (fun t => (t.ma, t.readMem 0o7)) (step (deferring 0o1407 0o7 0o300)) = some (0o0300, 0o0300) := by decide

/-! IOT and the third group, sections 2.4 and 2.7. -/

theorem test_iot_raises :
    nextOf pcAcRun (step (fetching 0o6777 5 0)) = some (0o0201, 5, true) ∧
      nextOf (fun t => (t.ma, t.ins, t.fault)) (step (fetching 0o6777 5 0)) =
        some (0o0377, 0, some .notImplemented) := by decide

theorem test_opr3_raises :
    nextOf (fun t => (t.pc, t.ac, t.ma, t.run, t.fault)) (step (fetching 0o7601 5 1)) =
      some (0o0201, 5, 0o0201, true, some .notImplemented) := by decide

/-! Operate Group 1, section 2.5. -/

theorem test_nop : nextOf acL (step (fetching 0o7000 0o1234 1)) = some (0o1234, 1) := by decide
theorem test_cla1 : nextOf acL (step (fetching 0o7200 0o1234 1)) = some (0o0000, 1) := by decide
theorem test_cll : nextOf acL (step (fetching 0o7100 0o1234 1)) = some (0o1234, 0) := by decide
theorem test_cma : nextOf acL (step (fetching 0o7040 0o1234 0)) = some (0o6543, 0) := by decide
theorem test_cml : nextOf acL (step (fetching 0o7020 0o0000 0)) = some (0o0000, 1) := by decide
theorem test_iac_keeps_link : nextOf acL (step (fetching 0o7001 0o7777 0)) = some (0o0000, 0) := by decide
theorem test_rar_into_link : nextOf acL (step (fetching 0o7010 0o0001 0)) = some (0o0000, 1) := by decide
theorem test_rar_from_link : nextOf acL (step (fetching 0o7010 0o0000 1)) = some (0o4000, 0) := by decide
theorem test_ral_into_link : nextOf acL (step (fetching 0o7004 0o4000 0)) = some (0o0000, 1) := by decide
theorem test_ral_from_link : nextOf acL (step (fetching 0o7004 0o0000 1)) = some (0o0001, 0) := by decide
theorem test_rtr : nextOf acL (step (fetching 0o7012 0o0003 0)) = some (0o4000, 1) := by decide
theorem test_rtl : nextOf acL (step (fetching 0o7006 0o6000 0)) = some (0o0001, 1) := by decide
theorem test_rot2_alone : nextOf acL (step (fetching 0o7002 0o1234 1)) = some (0o1234, 1) := by decide
theorem test_opr1_increment_before_rotate : nextOf acL (step (fetching 0o7011 0o0001 0)) = some (0o0001, 0) := by decide
theorem test_opr1_every_bit : nextOf acL (step (fetching 0o7377 0o1234 1)) = some (0o0000, 1) := by decide
theorem test_cia : nextOf acL (step (fetching 0o7041 0o0005 0)) = some (0o7773, 0) := by decide
theorem test_stl : nextOf acL (step (fetching 0o7120 0o0000 0)) = some (0o0000, 1) := by decide
theorem test_glk : nextOf acL (step (fetching 0o7204 0o0000 1)) = some (0o0001, 0) := by decide
theorem test_sta : nextOf acL (step (fetching 0o7240 0o1234 0)) = some (0o7777, 0) := by decide

/-! Operate Group 2, section 2.6. -/

theorem test_sma :
    nextOf pcAcRun (step (fetching 0o7500 0o4000 0)) = some (0o0202, 0o4000, true) ∧
      nextOf pcAcRun (step (fetching 0o7500 0o3777 0)) = some (0o0201, 0o3777, true) := by decide

theorem test_sza :
    nextOf pcAcRun (step (fetching 0o7440 0 0)) = some (0o0202, 0, true) ∧
      nextOf pcAcRun (step (fetching 0o7440 1 0)) = some (0o0201, 1, true) := by decide

theorem test_snl :
    nextOf pcAcRun (step (fetching 0o7420 0 1)) = some (0o0202, 0, true) ∧
      nextOf pcAcRun (step (fetching 0o7420 0 0)) = some (0o0201, 0, true) := by decide

theorem test_spa :
    nextOf pcAcRun (step (fetching 0o7510 0 0)) = some (0o0202, 0, true) ∧
      nextOf pcAcRun (step (fetching 0o7510 0o4000 0)) = some (0o0201, 0o4000, true) := by decide

theorem test_sna :
    nextOf pcAcRun (step (fetching 0o7450 1 0)) = some (0o0202, 1, true) ∧
      nextOf pcAcRun (step (fetching 0o7450 0 0)) = some (0o0201, 0, true) := by decide

theorem test_szl :
    nextOf pcAcRun (step (fetching 0o7430 0 0)) = some (0o0202, 0, true) ∧
      nextOf pcAcRun (step (fetching 0o7430 0 1)) = some (0o0201, 0, true) := by decide

theorem test_skp : nextOf pcAcRun (step (fetching 0o7410 0o1234 1)) = some (0o0202, 0o1234, true) := by decide
theorem test_cla2 : nextOf pcAcRun (step (fetching 0o7600 0o1234 0)) = some (0o0201, 0, true) := by decide

theorem test_osr :
    nextOf pcAcRun (step { fetching 0o7404 0o0070 0 with sr := 0o1201 }) = some (0o0201, 0o1271, true) := by decide

theorem test_hlt : nextOf pcAcRun (step (fetching 0o7402 0o1234 0)) = some (0o0201, 0o1234, false) := by decide
theorem test_nop2 : nextOf pcAcRun (step (fetching 0o7400 0o1234 1)) = some (0o0201, 0o1234, true) := by decide

theorem test_las :
    nextOf pcAcRun (step { fetching 0o7604 0o0070 0 with sr := 0o1201 }) = some (0o0201, 0o1201, true) := by decide

/-- SZA SNL with both conditions true skips once, not twice (S7). -/
theorem test_opr2_skips_once : nextOf pcAcRun (step (fetching 0o7460 0 1)) = some (0o0202, 0, true) := by decide

/-- CLA OSR HLT: the accumulator has changed when the run flag clears (S10). -/
theorem test_opr2_cla_osr_hlt :
    nextOf pcAcRun (step { fetching 0o7606 0o5555 0 with sr := 0o0017 }) = some (0o0201, 0o0017, false) := by decide

/-! The loader, section 2.8. -/

/-- T1: origin 0200, one word. -/
theorem test_tape_stores_twice :
    load (some [0o200, 0o102, 0o000, 0o012, 0o034, 0o200]) [] = .ok ([(0o200, 0o1234), (0o201, 0o1234)], 0o200) := by
  decide

/-- T5: a tag in mid-word drops the word. -/
theorem test_tape_tag_in_mid_word :
    load (some [0o102, 0o000, 0o012, 0o101, 0o000, 0o034, 0o056]) [] =
      .ok ([(0o100, 0o3456), (0o101, 0o3456)], 0o100) := by decide

/-- T6: the address wraps. -/
theorem test_tape_address_wraps :
    load (some [0o177, 0o077, 0o000, 0o001]) [] = .ok ([(0, 1), (0o7777, 1)], 0o7777) := by decide

/-- T8: bit 7 of an untagged byte is ORed in. -/
theorem test_tape_bit_seven :
    load (some [0o102, 0o201, 0o010, 0o234]) [] = .ok ([(0o201, 0o1234), (0o202, 0o1234)], 0o201) := by decide

/-! The host's entry points. -/

/-- A placed word is the first instruction after reset: HLT at 0, one step (log 3). -/
theorem test_withFetchWord_runs_first :
    nextOf (fun t => (t.ir, t.pc, t.run)) (step (State.reset.withFetchWord 12 0o7402)) = some (0o7402, 1, false) := by
  decide

/-- A zero word is placed too: AND 0, which removes the cell. -/
theorem test_withFetchWord_zero :
    nextOf (fun t => (t.ir, t.cycle)) (step ((fetching 0o7402 0 0).withFetchWord 12 0)) = some (0, .execute) := by
  decide

/-- Section 2.9: reset between the steps of TAD clears AC, L and MB, and the step then adds. -/
theorem test_reset_mid_instruction :
    nextOf (fun t => (t.ac, t.l, t.cyc, t.ins)) (step (driverReset (executing 0o1250 7 1 0o250 3))) =
      some (3, 0, 2, 1) := by decide

/-! Witnesses: the hypotheses of each statement hold together on these states. -/

theorem witness_CanonicalMemoriesWithEqualCellsAreEqual :
    Memory.wf [(0, 1), (4095, 2)] = true ∧
      ∀ a, a < 4096 → Memory.read [(0, 1), (4095, 2)] a = Memory.read [(0, 1), (4095, 2)] a :=
  ⟨rfl, fun _ _ => rfl⟩

theorem witness_DecodeOfEncodeIsTheInstruction :
    (Instr.jmp true true 0o177).wellFormed = true ∧ (Instr.las).wellFormed = true ∧
      (Instr.opr1 { cla := true, cll := true }).wellFormed = true := by decide

theorem witness_AndMasksTheAccumulator : (executing 0o0250 0o7070 0 0o250 0o707).cycle = .execute := rfl

/-- A sum of 4095 and one of 4096. -/
theorem witness_TadAddsAndTogglesTheLinkOnCarry :
    (executing 0o1250 0o7776 0 0o250 1).cycle = .execute ∧ (executing 0o1250 0o7777 0 0o250 1).cycle = .execute :=
  ⟨rfl, rfl⟩

/-- A cell that reaches 0 and one that does not. -/
theorem witness_IszIncrementsTheCellAndSkipsAtZero :
    (executing 0o2250 0 0 0o250 0o7777).cycle = .execute ∧ (executing 0o2250 0 0 0o250 0o7776).cycle = .execute :=
  ⟨rfl, rfl⟩

theorem witness_DcaStoresAndClearsTheAccumulator : (executing 0o3250 0o1234 1 0o250 0o5555).cycle = .execute := rfl

theorem witness_JmsSavesTheReturnAddressAndJumps : (executing 0o4377 0 0 0o7777 0).cycle = .execute := rfl

theorem witness_MemoryReferenceFetchLatchesTheAddress :
    Instr.jms ∈ executed ∧ (fetching 0o4610 0 0).cycle = .fetch := ⟨by simp [executed], rfl⟩

/-- The cells 0o7, 0o10, 0o17 and 0o20 about the ends of the range. -/
theorem witness_MemoryReferenceDeferFollowsThePointer :
    Instr.tad ∈ executed ∧ (deferring 0o1407 0o7 0o300).cycle = .defer ∧ (deferring 0o1410 0o10 0o300).cycle = .defer ∧
      (deferring 0o1417 0o17 0o300).cycle = .defer ∧ (deferring 0o1420 0o20 0o300).cycle = .defer :=
  ⟨by simp [executed], rfl, rfl, rfl, rfl⟩

theorem witness_DirectJmpCompletesInFetch : (fetching 0o5377 0 0).cycle = .fetch := rfl

theorem witness_IndirectJmpJumpsToThePointer :
    (fetching 0o5650 0 0).cycle = .fetch ∧ (deferring 0o5410 0o10 0o377).cycle = .defer ∧
      (executing 0o5250 0 0 0o250 0).cycle = .execute := ⟨rfl, rfl, rfl⟩

theorem witness_DeferIncrementsOnlyAutoIncrementCells :
    (deferring 0o1410 0o10 0).fault = none ∧ (deferring 0o1410 0o10 0).cycle = .defer ∧
      inAutoRange (deferring 0o1410 0o10 0).ma ∧ inAutoRange (deferring 0o1417 0o17 0).ma ∧
      ¬ inAutoRange (deferring 0o1407 0o7 0).ma ∧ ¬ inAutoRange (deferring 0o1420 0o20 0).ma := by
  simp [deferring, inAutoRange, State.reset]

theorem witness_IotAndThirdGroupRaiseNotImplemented :
    (fetching 0o6032 5 0).cycle = .fetch ∧ (fetching 0o7401 5 1).cycle = .fetch := ⟨rfl, rfl⟩

/-- An IOT word and a third-group word. -/
theorem witness_NotImplementedStepKeepsTheFetchWrites :
    (fetching 0o6032 5 0).fault = none ∧ (fetching 0o6032 5 0).cycle = .fetch ∧
      opcodeOf ((fetching 0o6032 5 0).readMem 0o200) = .iot ∧
      (fetching 0o7401 5 1).readMem 0o200 &&& 0o7401 = 0o7401 := by decide

/-- A step that raises, the last Group 2 word that does not, and an Execute step. -/
theorem witness_OnlyUnimplementedWordsRaiseNotImplemented :
    nextOf State.fault (step (fetching 0o6000 5 0)) = some (some .notImplemented) ∧
      nextOf State.fault (step (fetching 0o7776 5 0)) = some none ∧
      nextOf State.fault (step (executing 0o0250 0 0 0o250 0)) = some none := by decide

theorem witness_FaultedStateTakesNoStep :
    ({ fetching 0o7402 0 0 with fault := some .notImplemented } : State).fault = some .notImplemented := rfl

theorem witness_StepsFailOnlyOnExecuteOfJmpIotOpr :
    (executing 0o5250 0 0 0o250 0).fault = none ∧ opcodeOf (executing 0o5250 0 0 0o250 0).ir = .jmp ∧
      opcodeOf (executing 0o6000 0 0 0 0).ir = .iot ∧ opcodeOf (executing 0o7000 0 0 0 0).ir = .opr ∧
      opcodeOf (executing 0o4250 0 0 0o250 0).ir = .jms := by decide

theorem witness_Group1ClearsComplementsAndIncrements : (fetching 0o7001 0o7777 1).cycle = .fetch := rfl

theorem witness_Group1RotatesLinkAndAccumulator : (fetching 0o7006 0o6000 0).cycle = .fetch := rfl

theorem witness_WordsWithoutAnEffectOnlyLatchTheAddress : (fetching 0o7400 0 0).cycle = .fetch := rfl

theorem witness_Group1SequenceForEveryCombination : (fetching 0o7377 0o1234 1).cycle = .fetch := rfl

/-- The accumulators 0, 2047 and 2048 and both links, where the tests change. -/
theorem witness_Group2SkipTests :
    (fetching 0o7500 0o4000 0).cycle = .fetch ∧ (fetching 0o7500 0o3777 1).cycle = .fetch ∧
      (fetching 0o7440 0 1).cycle = .fetch := ⟨rfl, rfl, rfl⟩

theorem witness_Group2ClearsReadsSwitchesAndHalts : (fetching 0o7402 0o1234 0).cycle = .fetch := rfl

theorem witness_Group2SequenceForEveryCombination : (fetching 0o7550 0o4000 0).cycle = .fetch := rfl

/-- In Fetch; in Defer, with a next state; in Execute of JMP, with a fault. -/
theorem witness_StepRunsTheDecodedInstruction :
    (Instr.hlt).wellFormed = true ∧ (fetching 0o7402 0 0).fault = none ∧
      (fetching 0o7402 0 0).readMem (fetching 0o7402 0 0).pc = encode .hlt ∧
      (deferring 0o5410 0o10 0o377).ir = encode (.jmp true false 0o10) ∧
      nextOf State.pc (exec (.jmp true false 0o10) { deferring 0o5410 0o10 0o377 with cyc := 2 }) = some 0o400 ∧
      (executing 0o5410 0 0 0 0).ir = encode (.jmp true false 0o10) := by decide

theorem witness_StepRunsTheDecodedInstruction_fault :
    exec (.jmp true false 0o10) { executing 0o5410 0 0 0 0 with cyc := 2 } = .fault .internalInvariantViolation := rfl

/-- A direct JMP, an OPR word and another word. -/
theorem witness_EveryFetchMakesTheFetchWrites :
    (fetching 0o5250 0 0).fault = none ∧ (fetching 0o5250 0 0).cycle = .fetch ∧
      opcodeOf ((fetching 0o5250 0 0).readMem 0o200) = .jmp ∧ opcodeOf ((fetching 0o7410 0 0).readMem 0o200) = .opr ∧
      opcodeOf ((fetching 0o1250 0 0).readMem 0o200) = .tad := by decide

/-- One state for each row. -/
theorem witness_TransitionTable :
    ((fetching 0o6032 0 0).fault = none ∧ (fetching 0o6032 0 0).cycle = .fetch) ∧
    (opcodeOf (deferring 0o5410 0o10 0).ir = .jmp ∧ hasExecutePart (opcodeOf (deferring 0o1410 0o10 0).ir) = true) ∧
    (hasExecutePart (opcodeOf (executing 0o4250 0 0 0o250 0).ir) = true ∧
      hasExecutePart (opcodeOf (executing 0o7000 0 0 0 0).ir) = false) ∧
    (breaking.fault = none ∧ breaking.cycle = .brk) := by decide

theorem witness_BreakPassesThroughToFetch :
    (breaking.fault = none ∧ breaking.cycle = .brk) ∧ nextOf State.cycle (step breaking) = some .fetch := by decide

/-- A step that raises an error has a next state too. -/
theorem witness_EveryStepCountsOneCycle :
    nextOf State.cyc (step (fetching 0o6032 0 0)) = some 1 ∧
      nextOf State.cyc (step (executing 0o0250 0 0 0o250 0)) = some 2 := by decide

/-- A step that is counted and one, from Fetch to Fetch, that is not. -/
theorem witness_InstructionCounterCountsReturnsToFetch :
    nextOf State.ins (step (executing 0o0250 0 0 0o250 0)) = some 1 ∧
      nextOf State.ins (step (fetching 0o7000 0 0)) = some 0 := by decide

theorem witness_StepReadsNeitherRunNorSwitchNorCounters :
    SameButUnread (fetching 0o7001 0 0) { fetching 0o7001 0 0 with run := false, ss := true, cyc := 9, ins := 9 } := rfl

/-- HLT, and a word without its bit. -/
theorem witness_OnlyHltClearsTheRunFlag :
    nextOf State.run (step (fetching 0o7402 0 0)) = some false ∧
      nextOf State.run (step (fetching 0o7403 0 0)) = some true := by decide

theorem witness_OnlyOsrReadsTheSwitchRegister :
    nextOf State.sr (step (fetching 0o7404 0 0)) = some 0 ∧
      (fetching 0o7402 0 0).readMem (fetching 0o7402 0 0).pc &&& 0o7405 ≠ 0o7404 := by decide

/-- A step that changes AC and L, one that changes PC, and one that changes RUN. -/
theorem witness_RegisterWritersAreThoseOfTheAccessMatrix :
    nextOf acL (step (executing 0o1250 0o7777 0 0o250 1)) = some (0, 1) ∧
      nextOf State.pc (step (executing 0o4377 0 0 0o7777 0)) = some 0 ∧
      nextOf State.run (step (fetching 0o7402 0 0)) = some false := by decide

/-- A Defer step at each end of the range, and a DCA, that change the cell at MA. -/
theorem witness_OnlyDeferAndExecuteWriteMemoryAtMa :
    nextOf (fun t => t.readMem 0o10) (step (deferring 0o1410 0o10 0o277)) = some 0o300 ∧
      nextOf (fun t => t.readMem 0o17) (step (deferring 0o1417 0o17 0o277)) = some 0o300 ∧
      nextOf (fun t => t.readMem 0o250) (step (executing 0o3250 1 0 0o250 0o5555)) = some 1 := by decide

/-- Memories that agree at PC, at MA in Defer, and at MA in Execute. -/
theorem witness_StepReadsOneCellOfMemory :
    Memory.read [(0, 7), (0o200, 0o7001)] (fetching 0o7001 0 0).pc.toNat = (fetching 0o7001 0 0).readMem 0o200 ∧
      Memory.read [(0, 7), (0o10, 0o300)] 0o10 = (deferring 0o1410 0o10 0o300).readMem 0o10 ∧
      Memory.read [(0, 7), (0o250, 3)] 0o250 = (executing 0o1250 0 0 0o250 3).readMem 0o250 := by decide

/-- A state in Defer, one in Execute and one that raises. -/
theorem witness_EveryStepKeepsTheInvariant :
    ((deferring 0o1410 0o10 0o277).Inv ∧ nextOf State.cycle (step (deferring 0o1410 0o10 0o277)) = some .execute) ∧
    ((executing 0o4250 0 0 0o250 1).Inv ∧ nextOf State.cycle (step (executing 0o4250 0 0 0o250 1)) = some .fetch) ∧
    ((fetching 0o6032 0 0).Inv ∧ nextOf State.cycle (step (fetching 0o6032 0 0)) = some .fetch) := by
  refine ⟨⟨⟨?_, ?_, ?_⟩, ?_⟩, ⟨⟨?_, ?_, ?_⟩, ?_⟩, ⟨?_, ?_, ?_⟩, ?_⟩ <;> decide

/-- A loaded machine, and the machine after start. -/
theorem witness_NoReachableStateViolatesTheTransitionTable :
    Reachable ((loadTape (some [0o102, 0o000, 0o074, 0o002]) State.reset).1.setPc 0o200) ∧
      Reachable (start ((loadTape (some [0o102, 0o000, 0o074, 0o002]) State.reset).1.setPc 0o200)) ∧
      Reachable (launch 0o200 [(0o200, 0o7402)] 0o17 0o7777 0o1234 9 8) :=
  ⟨.construction _ _, .move (.driver .start) (.construction _ _) rfl, .launch rfl⟩

/-- One word for each clause. -/
theorem witness_MemoryReferenceInstructionsComplete :
    (fetching 0o0250 0 0).fault = none ∧ (fetching 0o0250 0 0).cycle = .fetch ∧
      opcodeOf ((fetching 0o0250 0 0).readMem 0o200) = .and ∧ opcodeOf ((fetching 0o1412 0 0).readMem 0o200) = .tad ∧
      opcodeOf ((fetching 0o2410 0 0).readMem 0o200) = .isz ∧ opcodeOf ((fetching 0o3417 0 0).readMem 0o200) = .dca ∧
      opcodeOf ((fetching 0o4610 0 0).readMem 0o200) = .jms := by decide

theorem witness_JmpInstructionCompletes :
    (fetching 0o5600 0 0).fault = none ∧ (fetching 0o5600 0 0).cycle = .fetch ∧
      opcodeOf ((fetching 0o5600 0 0).readMem 0o200) = .jmp ∧ opcodeOf ((fetching 0o5250 0 0).readMem 0o200) = .jmp := by
  decide

theorem witness_EveryInstructionReachesABoundary :
    (fetching 0o1412 0 0).fault = none ∧ (fetching 0o1412 0 0).cycle = .fetch := ⟨rfl, rfl⟩

/-- The JMP I of S5 after its JMS at 0o210. -/
def returning : State :=
  { State.reset with pc := 0o212, run := true, mem := [(0o210, 0o201), (0o212, 0o5610)] }

theorem witness_IndirectJmpReturnsFromJms :
    ((executing 0o4210 0 0 0o210 0).fault = none ∧ (executing 0o4210 0 0 0o210 0).cycle = .execute ∧
      opcodeOf (executing 0o4210 0 0 0o210 0).ir = .jms ∧
      nextOf (fun t => t.readMem 0o210) (step (executing 0o4210 0 0 0o210 0)) = some (returning.readMem 0o210)) ∧
    (returning.fault = none ∧ returning.cycle = .fetch ∧ opcodeOf (returning.readMem returning.pc) = .jmp ∧
      (returning.readMem returning.pc).getLsbD 8 = true ∧
      eaOf (returning.readMem returning.pc) (returning.pc + 1) = 0o210) := by decide

theorem witness_IndirectJmpReturnsFromJms_range : ¬ inAutoRange (executing 0o4210 0 0 0o210 0).ma := by
  simp [executing, inAutoRange]

theorem witness_DriverMovesLeaveTheInstructionAlone : Move.driver .reset ≠ Move.step := by decide

theorem witness_ClearingMbMidInstructionChangesNothing :
    (deferring 0o1410 0o10 0).cycle = .defer ∧ (executing 0o1250 0 0 0o250 0).cycle = .execute := ⟨rfl, rfl⟩

/-- Each way the test fails; and a run of one step that ends by HLT, without FAULT. -/
theorem witness_RunEndsOnlyWhenItsTestFails :
    State.reset.run = false ∧ ({ fetching 0o7402 0 0 with ss := true } : State).ss = true ∧
      ({ fetching 0o7402 0 0 with fault := some .notImplemented } : State).fault ≠ none ∧
      RunSucceeds (fetching 0o7402 0 0)
        { fetching 0o7402 0 0 with
          pc := 0o201, ma := 2, mb := 0o7402, ir := 0o7402, run := false, cyc := 1 } :=
  ⟨rfl, rfl, by decide, [[]], rfl, rfl⟩

/-- A run in the middle of TAD, where stop() finds it in Execute; and one that IOT ends without success. -/
theorem witness_RunEndsOnlyWhenItsTestFails_mid_instruction :
    (∃ t, runSchedule [[]] (fetching 0o1250 0 0) = .running t ∧ t.cycle = .execute) ∧
      (runFor 5 (fetching 0o6046 0 0)).successful = false := ⟨⟨_, rfl, rfl⟩, rfl⟩

/-- A launch state with values in MA, IR and the counters, and the memory a tape leaves. -/
theorem witness_InvariantHoldsAtConstruction :
    Memory.wf [(0o200, 0o7402)] = true ∧
      isLaunch (launch 0o200 [(0o200, 0o7402)] 0o17 0o7777 0o1234 9 8) = true ∧
      (launch 0o200 [(0o200, 0o7402)] 0o17 0o7777 0o1234 9 8).ir = 0o1234 := by decide

/-- The least and the greatest low byte without bit 7, and with it. -/
theorem witness_OriginLowByteCompletesTheOrigin :
    ({ LoaderState.start [] with ls := .originLow } : LoaderState).ls = .originLow ∧
      ((0 : TapeByte) ≠ 0o200 ∧ (0 : TapeByte) &&& 0o100 = 0) ∧
      ((0o77 : TapeByte) ≠ 0o200 ∧ (0o77 : TapeByte) &&& 0o100 = 0) ∧
      ((0o201 : TapeByte) ≠ 0o200 ∧ (0o201 : TapeByte) &&& 0o100 = 0) ∧
      ((0o277 : TapeByte) ≠ 0o200 ∧ (0o277 : TapeByte) &&& 0o100 = 0) := by decide

/-- The least and the greatest byte of each clause. -/
theorem witness_HighBytesSupplyBitsElevenToSix :
    (LoaderState.start []).ls = .originHigh ∧ (0o377 : TapeByte) ≠ 0o200 ∧
      ({ LoaderState.start [] with ls := .dataHigh } : LoaderState).ls = .dataHigh ∧
      (0o277 : TapeByte) ≠ 0o200 ∧ (0o277 : TapeByte) &&& 0o100 = 0 ∧ (0 : TapeByte) ≠ 0o200 := by decide

/-- At the last address. -/
theorem witness_LowByteStoresTheWordTwice :
    ({ LoaderState.start [] with ls := .dataLow, la := 0o7777 } : LoaderState).ls = .dataLow ∧
      (0o234 : TapeByte) ≠ 0o200 ∧ (0o234 : TapeByte) &&& 0o100 = 0 := by decide

theorem witness_TaggedBytesRestartTheOrigin :
    (0o100 : TapeByte) &&& 0o100 ≠ 0 ∧ (0o377 : TapeByte) &&& 0o100 ≠ 0 := by decide

/-- A tagged byte, an origin and a word that the stream ends in. -/
theorem witness_ReadableStreamsNeverFail :
    (0o102 : TapeByte) &&& 0o100 ≠ 0 ∧ ((LoaderState.start []).consumeAll []).ls = .originHigh ∧
      ((LoaderState.start []).consumeAll [0o102, 0o000]).ls = .dataHigh := by decide

/-- One word, and the greatest number of words. -/
theorem witness_TapeBlockLoadsItsWords :
    ([0o1234] : List Word) ≠ [] ∧ ([0o1234] : List Word).length < 4096 ∧
      List.replicate 4095 (0 : Word) ≠ [] ∧ (List.replicate 4095 (0 : Word)).length < 4096 := by
  refine ⟨by decide, by decide, fun h => ?_, ?_⟩
  · have hl := congrArg List.length h
    rw [List.length_replicate] at hl
    cases hl
  · rw [List.length_replicate]
    decide

end Sys2Proof.Tests
end

section
/-! SUPPORT. The operate groups of a word: the instruction a control field decodes to, the bits that choose the group, and
the two masks that single out HLT and OSR (spec/30_encoding.md R79 to R81). -/

namespace Sys2Proof

open Sys2Proof.Machine Sys2Proof.Claims

/-- What holds of every named control field and of every unnamed one holds of the instruction looked up for it. -/
theorem of_lookup_getD {α : Type} [DecidableEq α] {P : α → Instr → Prop} {names : List (α × Instr)}
    {other : α → Instr} (hn : ∀ p ∈ names, P p.1 p.2) (ho : ∀ g, P g (other g)) (g : α) :
    P g ((names.lookup g).getD (other g)) := by
  cases h : names.lookup g with
  | none => exact ho g
  | some i =>
    obtain ⟨l₁, l₂, rfl, -⟩ := List.lookup_eq_some_iff.1 h
    exact hn (g, i) (by simp)

theorem decodeGroup1_induction {P : Group1 → Instr → Prop} (hn : ∀ p ∈ group1Names, P p.1 p.2)
    (ho : ∀ g, P g (.opr1 g)) (g : Group1) : P g (decodeGroup1 g) :=
  of_lookup_getD hn ho g

theorem decodeGroup2_induction {P : Group2 → Instr → Prop} (hn : ∀ p ∈ group2Names, P p.1 p.2)
    (ho : ∀ g, P g (.opr2 g)) (g : Group2) : P g (decodeGroup2 g) :=
  of_lookup_getD hn ho g

@[simp] theorem groupOf_decodeGroup1 (g : Group1) : groupOf (decodeGroup1 g) = some 1 :=
  decodeGroup1_induction (P := fun _ i => groupOf i = some 1) (by decide) (fun _ => rfl) g

@[simp] theorem groupOf_decodeGroup2 (g : Group2) : groupOf (decodeGroup2 g) = some 2 :=
  decodeGroup2_induction (P := fun _ i => groupOf i = some 2) (by decide) (fun _ => rfl) g

theorem groupOf_decodeWord_of_not_opr {w : Word} (h : opcodeOf w ≠ .opr) : groupOf (decodeWord w) = none := by
  cases ho : opcodeOf w with
  | opr => exact absurd ho h
  | _ => simp [decodeWord, ho, groupOf]

/-- The group of an OPR word, by its bits 8 and 0 (R79). -/
theorem groupOf_decodeWord_of_opr {w : Word} (h : opcodeOf w = .opr) :
    groupOf (decodeWord w) =
      some (if w.getLsbD 8 = false then 1 else if w.getLsbD 0 = false then 2 else 3) := by
  rw [decodeWord_opr h]
  rcases decodeOperate_cases w with ⟨h8, hd⟩ | ⟨h8, h0, hd⟩ | ⟨h8, h0, hd⟩
  · rw [hd, groupOf_decodeGroup1, if_pos h8]
  · rw [hd, groupOf_decodeGroup2, h8, h0]
    rfl
  · rw [hd, h8, h0]
    rfl

theorem opcodeOf_eq_opr_of_groupOf {w : Word} {n : Nat} (h : groupOf (decodeWord w) = some n) :
    opcodeOf w = .opr := by
  by_contra ho
  rw [groupOf_decodeWord_of_not_opr ho] at h
  cases h

theorem decodeWord_of_groupOf_one {w : Word} (h : groupOf (decodeWord w) = some 1) :
    decodeWord w = decodeGroup1 (group1Bits w) := by
  have ho := opcodeOf_eq_opr_of_groupOf h
  rw [decodeWord_opr ho] at h ⊢
  rcases decodeOperate_cases w with ⟨-, hd⟩ | ⟨-, -, hd⟩ | ⟨-, -, hd⟩
  · exact hd
  · simp [hd] at h
  · simp [hd, groupOf] at h

theorem decodeWord_of_groupOf_two {w : Word} (h : groupOf (decodeWord w) = some 2) :
    decodeWord w = decodeGroup2 (group2Bits w) := by
  have ho := opcodeOf_eq_opr_of_groupOf h
  rw [decodeWord_opr ho] at h ⊢
  rcases decodeOperate_cases w with ⟨-, hd⟩ | ⟨-, -, hd⟩ | ⟨-, -, hd⟩
  · simp [hd] at h
  · exact hd
  · simp [hd, groupOf] at h

theorem opcodeOf_eq_opr_iff (w : Word) :
    opcodeOf w = .opr ↔ w.getLsbD 11 = true ∧ w.getLsbD 10 = true ∧ w.getLsbD 9 = true := by
  have hf (f : BitVec 3) :
      opcodeOfField f = .opr ↔ f.getLsbD 2 = true ∧ f.getLsbD 1 = true ∧ f.getLsbD 0 = true := by
    revert f; decide
  simp [opcodeOf, hf, opcodeField]

theorem groupOf_eq_two_iff (w : Word) :
    groupOf (decodeWord w) = some 2 ↔ opcodeOf w = .opr ∧ w.getLsbD 8 = true ∧ w.getLsbD 0 = false := by
  by_cases ho : opcodeOf w = .opr
  · rw [groupOf_decodeWord_of_opr ho]
    cases w.getLsbD 8 <;> cases w.getLsbD 0 <;> simp [ho]
  · simp [groupOf_decodeWord_of_not_opr ho, ho]

/-- Two words are equal when each of their twelve bits is. -/
theorem word_eq_iff_bits {v w : Word} : v = w ↔ ∀ i : Fin 12, v.getLsbD i = w.getLsbD i := by
  rw [BitVec.eq_of_getLsbD_eq_iff]
  exact ⟨fun h i => h i i.isLt, fun h i hi => h ⟨i, hi⟩⟩

/-- The mask of a Group 2 word with the HLT bit (R81, D3). -/
theorem masked_eq_hlt_iff (w : Word) :
    w &&& 0o7403 = 0o7402 ↔ groupOf (decodeWord w) = some 2 ∧ (group2Bits w).hlt = true := by
  have bits : w &&& 0o7403 = 0o7402 ↔ w.getLsbD 0 = false ∧ w.getLsbD 1 = true ∧
      w.getLsbD 8 = true ∧ w.getLsbD 9 = true ∧ w.getLsbD 10 = true ∧ w.getLsbD 11 = true := by
    simp [word_eq_iff_bits, Fin.forall_fin_succ]
  rw [bits, groupOf_eq_two_iff, opcodeOf_eq_opr_iff]
  simp only [group2Bits]
  tauto

/-- The mask of a Group 2 word with the OSR bit (R81, D3). -/
theorem masked_eq_osr_iff (w : Word) :
    w &&& 0o7405 = 0o7404 ↔ groupOf (decodeWord w) = some 2 ∧ (group2Bits w).osr = true := by
  have bits : w &&& 0o7405 = 0o7404 ↔ w.getLsbD 0 = false ∧ w.getLsbD 2 = true ∧
      w.getLsbD 8 = true ∧ w.getLsbD 9 = true ∧ w.getLsbD 10 = true ∧ w.getLsbD 11 = true := by
    simp [word_eq_iff_bits, Fin.forall_fin_succ]
  rw [bits, groupOf_eq_two_iff, opcodeOf_eq_opr_iff]
  simp only [group2Bits]
  tauto

/-! An operate instruction neither jumps in Defer nor has an Execute part (R101). -/

theorem isJmp_of_groupOf {i : Instr} {n : Nat} (h : groupOf i = some n) : isJmp i = false := by
  cases i with
  | jmp => cases h
  | _ => rfl

theorem executePart_of_groupOf {i : Instr} {n : Nat} (h : groupOf i = some n) : executePart i = none := by
  cases i with
  | and | tad | isz | dca | jms => cases h
  | _ => rfl

theorem isJmp_decodeWord_iff (w : Word) : isJmp (decodeWord w) = true ↔ opcodeOf w = .jmp := by
  cases ho : opcodeOf w with
  | opr => simp [isJmp_of_groupOf (groupOf_decodeWord_of_opr ho)]
  | _ => simp [decodeWord, ho, isJmp]

/-- The Execute part a word has, by its opcode (R130). -/
theorem executePart_decodeWord_cases {w : Word} {f : State → State} (h : executePart (decodeWord w) = some f) :
    (opcodeOf w = .and ∧ f = andEffect) ∨ (opcodeOf w = .tad ∧ f = tadEffect) ∨
      (opcodeOf w = .isz ∧ f = iszEffect) ∨ (opcodeOf w = .dca ∧ f = dcaEffect) ∨
        (opcodeOf w = .jms ∧ f = jmsEffect) := by
  cases ho : opcodeOf w with
  | opr => simp [executePart_of_groupOf (groupOf_decodeWord_of_opr ho)] at h
  | jmp | iot => simp [decodeWord, ho, executePart] at h
  | _ => simpa [decodeWord, ho, executePart, eq_comm] using h

end Sys2Proof
end

section
/-! SUPPORT. What the Fetch part of a word writes, by its operate group, and the inversion of one whole step
(spec/40_cycle_engine.md R100 to R111; spec/44_operate_group2.md R218). -/

namespace Sys2Proof.Machine

open Sys2Proof.Claims

/-- A named Group 1 instruction does what the sequence of its field does (R171; notes/assumptions/6.md). -/
theorem fetchPart_decodeGroup1 (g : Group1) :
    fetchPart (decodeGroup1 g) = operateFetch g.control (group1Sequence g) := by
  refine decodeGroup1_induction (P := fun g i => fetchPart i = operateFetch g.control (group1Sequence g)) ?_
    (fun _ => rfl) g
  simp only [group1Names, List.cons_append, List.nil_append, List.forall_mem_cons]
  refine ⟨rfl, rfl, rfl, rfl, rfl, rfl, rfl, rfl, rfl, rfl, rfl, rfl, rfl, rfl, rfl, ?_⟩
  simp

/-- A named Group 2 instruction does what the sequence of its field does (R201; notes/assumptions/6.md). -/
theorem fetchPart_decodeGroup2 (g : Group2) (s : State) :
    fetchPart (decodeGroup2 g) s = operateFetch g.control (group2Sequence g) s := by
  refine decodeGroup2_induction
    (P := fun g i => fetchPart i s = operateFetch g.control (group2Sequence g) s) ?_ (fun _ => rfl) g
  simp [group2Names, fetchPart, operateFetch, group2Sequence, group2Skip, Group2.control]

theorem group2Sequence_run (g : Group2) (s : State) : (group2Sequence g s).run = (s.run && !g.hlt) := by
  have keeps {f : State → State} (hf : ∀ u, (f u).run = u.run) (b : Bool) (u : State) :
      (applyIf b f u).run = u.run := by cases b <;> simp [hf]
  have skip := keeps (f := skipNext) fun _ => rfl
  have cla := keeps (f := clearAc) fun _ => rfl
  have osr := keeps (f := orSwitches) fun _ => rfl
  cases hh : g.hlt
  · simp [group2Sequence, hh, skip, cla, osr]
  · simp [group2Sequence, hh, haltRun]

theorem fetchPart_group1_frame {w : Word} (h : groupOf (decodeWord w) = some 1) (s : State) :
    ∃ ma a l, fetchPart (decodeWord w) s = { s with ma := ma, ac := a, l := l, cycle := .fetch } := by
  obtain ⟨a, l, hg⟩ := group1Sequence_changesAcL (group1Bits w) (latchControl (group1Bits w).control s)
  rw [decodeWord_of_groupOf_one h, fetchPart_decodeGroup1, operateFetch, hg]
  exact ⟨_, a, l, rfl⟩

theorem fetchPart_group2_frame {w : Word} (h : groupOf (decodeWord w) = some 2) (s : State) :
    ∃ pc ma a, fetchPart (decodeWord w) s =
      { s with pc := pc, ma := ma, ac := a, run := s.run && !(group2Bits w).hlt, cycle := .fetch } := by
  obtain ⟨a, r, hg⟩ := group2Sequence_frame (group2Bits w) (latchControl (group2Bits w).control s)
  have hr : r = (s.run && !(group2Bits w).hlt) :=
    (congrArg State.run hg).symm.trans (group2Sequence_run _ _)
  rw [decodeWord_of_groupOf_two h, fetchPart_decodeGroup2, operateFetch, hg, hr]
  exact ⟨_, _, a, rfl⟩

/-- The memory references, IOT and the third group. -/
theorem fetchPart_other_frame {i : Instr} (h1 : groupOf i ≠ some 1) (h2 : groupOf i ≠ some 2) (s : State) :
    ∃ pc ma c k, fetchPart i s = { s with pc := pc, ma := ma, cycle := c, fault := k } := by
  cases i with
  | and | tad | isz | dca | jms | iot | opr3 => exact ⟨_, _, _, _, rfl⟩
  | jmp indirect => cases indirect <;> exact ⟨_, _, _, _, rfl⟩
  | opr2 | sma | sza | snl | spa | sna | szl | skp | cla2 | osr | hlt | nop2 | las => exact absurd rfl h2
  | _ => exact absurd rfl h1

/-! Which words' Fetch parts write AC, L, RUN and SR (R36). -/

theorem fetchPart_l {w : Word} (h1 : groupOf (decodeWord w) ≠ some 1) (s : State) :
    (fetchPart (decodeWord w) s).l = s.l := by
  by_cases h2 : groupOf (decodeWord w) = some 2
  · obtain ⟨_, _, _, he⟩ := fetchPart_group2_frame h2 s
    rw [he]
  · obtain ⟨_, _, _, _, he⟩ := fetchPart_other_frame h1 h2 s
    rw [he]

theorem fetchPart_run_of_not_group2 {w : Word} (h2 : groupOf (decodeWord w) ≠ some 2) (s : State) :
    (fetchPart (decodeWord w) s).run = s.run := by
  by_cases h1 : groupOf (decodeWord w) = some 1
  · obtain ⟨_, _, _, he⟩ := fetchPart_group1_frame h1 s
    rw [he]
  · obtain ⟨_, _, _, _, he⟩ := fetchPart_other_frame h1 h2 s
    rw [he]

theorem fetchPart_ac {w : Word} (h : opcodeOf w ≠ .opr) (s : State) :
    (fetchPart (decodeWord w) s).ac = s.ac := by
  have hg := groupOf_decodeWord_of_not_opr h
  obtain ⟨_, _, _, _, he⟩ := fetchPart_other_frame (i := decodeWord w) (by simp [hg]) (by simp [hg]) s
  rw [he]

theorem fetchPart_sr (w : Word) (s : State) : (fetchPart (decodeWord w) s).sr = s.sr := by
  by_cases h1 : groupOf (decodeWord w) = some 1
  · obtain ⟨_, _, _, he⟩ := fetchPart_group1_frame h1 s
    rw [he]
  · by_cases h2 : groupOf (decodeWord w) = some 2
    · obtain ⟨_, _, _, he⟩ := fetchPart_group2_frame h2 s
      rw [he]
    · obtain ⟨_, _, _, _, he⟩ := fetchPart_other_frame h1 h2 s
      rw [he]

/-- RUN after the Fetch part: cleared by the HLT bit of a Group 2 word alone (R214). -/
theorem fetchPart_run (w : Word) (s : State) :
    (fetchPart (decodeWord w) s).run = (s.run && !(w &&& 0o7403 == 0o7402)) := by
  by_cases h2 : groupOf (decodeWord w) = some 2
  · have hm : (w &&& 0o7403 == 0o7402) = (group2Bits w).hlt :=
      Bool.eq_iff_iff.2 (beq_iff_eq.trans ((masked_eq_hlt_iff w).trans (and_iff_right h2)))
    obtain ⟨_, _, _, he⟩ := fetchPart_group2_frame h2 s
    rw [he, hm]
  · have hm : (w &&& 0o7403 == 0o7402) = false := beq_false_of_ne fun hm => h2 ((masked_eq_hlt_iff w).1 hm).1
    rw [hm, Bool.not_false, Bool.and_true]
    exact fetchPart_run_of_not_group2 h2 s

/-- Defer's pointer changes MA, MB and memory alone (R105, R106). -/
theorem derefPointer_frame (s : State) :
    ∃ ma mb m, derefPointer s = { s with ma := ma, mb := mb, mem := m } := by
  cases h : isAutoIncrement s.ma
  · exact ⟨_, _, _, derefPointer_plain h⟩
  · exact ⟨_, _, _, derefPointer_auto h⟩

/-- An Execute part changes PC, AC, L, MB and memory alone (R132 to R137). -/
theorem executePart_frame {i : Instr} {f : State → State} (hp : executePart i = some f) (s : State) :
    ∃ pc ac l mb m, f (loadOperand s) = { s with pc := pc, ac := ac, l := l, mb := mb, mem := m } := by
  cases i with
  | and | tad | dca | jms => cases hp; exact ⟨_, _, _, _, _, rfl⟩
  | isz => cases hp; exact ⟨_, _, _, _, _, iszEffect_loadOperand s⟩
  | _ => cases hp

/-- No step is taken from a state whose FAULT is set (R33). -/
theorem step_of_fault {s : State} {k : ErrorKind} (h : s.fault = some k) : step s = .fault (.alreadyFaulted k) := by
  simp only [step, h]

theorem step_execute_some {s : State} {f : State → State} (hf : s.fault = none) (h : s.cycle = .execute)
    (hp : executePart (decodeWord s.ir) = some f) :
    step s = .next { f (loadOperand s) with cyc := s.cyc + 1, ins := s.ins + 1, cycle := .fetch } := by
  rw [step_execute hf h, hp]

theorem step_execute_none {s : State} (hf : s.fault = none) (h : s.cycle = .execute)
    (hp : executePart (decodeWord s.ir) = none) : step s = .fault .internalInvariantViolation := by
  rw [step_execute hf h, hp]

/-- Break: a passthrough to Fetch that ends an instruction (R109, R111). -/
theorem step_brk {s : State} (hf : s.fault = none) (h : s.cycle = .brk) :
    step s = .next { s with cyc := s.cyc + 1, ins := s.ins + 1, cycle := .fetch } := by
  rw [step_of_exec hf (exec_brk (by simp [h]) _), countInstruction_eq, beginStep_other (by simp [h])]
  simp [h, State.setCycle]

/-- Every next state of a step, by the cycle state it is taken in (R100). -/
theorem step_next_cases {s t : State} (h : step s = .next t) :
    (s.cycle = .fetch ∧ t = fetchPart (decodeWord (s.readMem s.pc))
        { s with cyc := s.cyc + 1, mb := s.readMem s.pc, ir := s.readMem s.pc, pc := s.pc + 1 }) ∨
      (s.cycle = .defer ∧ t = if isJmp (decodeWord s.ir) then
          { derefPointer s with cyc := s.cyc + 1, ins := s.ins + 1, pc := (derefPointer s).mb, cycle := .fetch }
        else { derefPointer s with cyc := s.cyc + 1, cycle := .execute }) ∨
      (s.cycle = .execute ∧ ∃ f, executePart (decodeWord s.ir) = some f ∧
        t = { f (loadOperand s) with cyc := s.cyc + 1, ins := s.ins + 1, cycle := .fetch }) ∨
      (s.cycle = .brk ∧ t = { s with cyc := s.cyc + 1, ins := s.ins + 1, cycle := .fetch }) := by
  obtain ⟨hf, -⟩ := step_next h
  cases hc : s.cycle with
  | fetch =>
    rw [step_fetch hf hc, hc] at h
    exact .inl ⟨rfl, (Host.Outcome.next.inj h).symm⟩
  | defer =>
    rw [step_defer hf hc] at h
    exact .inr (.inl ⟨rfl, (Host.Outcome.next.inj h).symm⟩)
  | execute =>
    cases hp : executePart (decodeWord s.ir) with
    | none =>
      rw [step_execute_none hf hc hp] at h
      cases h
    | some f =>
      rw [step_execute_some hf hc hp] at h
      exact .inr (.inr (.inl ⟨rfl, f, rfl, (Host.Outcome.next.inj h).symm⟩))
  | brk =>
    rw [step_brk hf hc] at h
    exact .inr (.inr (.inr ⟨rfl, (Host.Outcome.next.inj h).symm⟩))

/-- Only Fetch writes RUN or could write SR (R36). -/
theorem step_keeps_run_sr {s t : State} (hc : s.cycle ≠ .fetch) (h : step s = .next t) :
    t.run = s.run ∧ t.sr = s.sr := by
  rcases step_next_cases h with ⟨hf, -⟩ | ⟨-, rfl⟩ | ⟨-, f, hp, rfl⟩ | ⟨-, rfl⟩
  · exact absurd hf hc
  · obtain ⟨_, _, _, hd⟩ := derefPointer_frame s
    rw [hd]
    split <;> exact ⟨rfl, rfl⟩
  · obtain ⟨_, _, _, _, _, he⟩ := executePart_frame hp s
    rw [he]
    exact ⟨rfl, rfl⟩
  · exact ⟨rfl, rfl⟩

end Sys2Proof.Machine
end

section
/-! SUPPORT. Which parts of a step do not depend on SR: a part that ignores it commutes with writing it
(spec/10_state.md R28; spec/44_operate_group2.md R213). -/

namespace Sys2Proof.Machine

open Sys2Proof.Claims

/-- Neither reads nor writes SR. -/
def IgnoresSr (f : State → State) : Prop := ∀ s x, f (s.setSr x) = (f s).setSr x

theorem IgnoresSr.comp {f g : State → State} (hf : IgnoresSr f) (hg : IgnoresSr g) :
    IgnoresSr (fun s => f (g s)) :=
  fun s x => (congrArg f (hg s x)).trans (hf (g s) x)

theorem IgnoresSr.applyIf {f : State → State} (hf : IgnoresSr f) (b : Bool) : IgnoresSr (applyIf b f) := by
  intro s x
  cases b
  · rfl
  · exact hf s x

theorem operateFetch_ignoresSr {f : State → State} (hf : IgnoresSr f) (c : BitVec 8) :
    IgnoresSr (operateFetch c f) :=
  fun s x => congrArg (State.setCycle · .fetch) (hf (latchControl c s) x)

theorem group1Sequence_ignoresSr (g : Group1) : IgnoresSr (group1Sequence g) := by
  have rr : IgnoresSr rotateRight := fun _ _ => rfl
  have rl : IgnoresSr rotateLeft := fun _ _ => rfl
  have c1 : IgnoresSr clearAc := fun _ _ => rfl
  have c2 : IgnoresSr clearLink := fun _ _ => rfl
  have c3 : IgnoresSr complementAc := fun _ _ => rfl
  have c4 : IgnoresSr complementLink := fun _ _ => rfl
  have c5 : IgnoresSr incrementAc := fun _ _ => rfl
  have complements := ((c4.applyIf g.cml).comp (c3.applyIf g.cma)).comp ((c2.applyIf g.cll).comp (c1.applyIf g.cla))
  have rights := (rr.applyIf (g.rar && g.two)).comp (rr.applyIf g.rar)
  have lefts := (rl.applyIf (g.ral && g.two)).comp (rl.applyIf g.ral)
  exact (lefts.comp rights).comp ((c5.applyIf g.iac).comp complements)

/-- Without the OSR bit, Group 2 ignores SR (R213). -/
theorem group2Sequence_ignoresSr {g : Group2} (h : g.osr = false) : IgnoresSr (group2Sequence g) := by
  have skip : IgnoresSr skipNext := fun _ _ => rfl
  have cla : IgnoresSr clearAc := fun _ _ => rfl
  have hlt : IgnoresSr haltRun := fun _ _ => rfl
  have test : IgnoresSr (fun s => Machine.applyIf (group2Skip g s.ac s.l) skipNext s) :=
    fun s x => skip.applyIf (group2Skip g s.ac s.l) s x
  intro s x
  simp only [group2Sequence, h, applyIf_false]
  exact ((hlt.applyIf g.hlt).comp ((cla.applyIf g.cla).comp test)) s x

theorem fetchPart_other_ignoresSr {i : Instr} (h1 : groupOf i ≠ some 1) (h2 : groupOf i ≠ some 2) :
    IgnoresSr (fetchPart i) := by
  cases i with
  | and | tad | isz | dca | jms | iot | opr3 => exact fun _ _ => rfl
  | jmp indirect => cases indirect <;> exact fun _ _ => rfl
  | opr2 | sma | sza | snl | spa | sna | szl | skp | cla2 | osr | hlt | nop2 | las => exact absurd rfl h2
  | _ => exact absurd rfl h1

/-- Only a Group 2 word with the OSR bit reads SR in Fetch. -/
theorem fetchPart_ignoresSr {w : Word} (h : w &&& 0o7405 ≠ 0o7404) : IgnoresSr (fetchPart (decodeWord w)) := by
  by_cases h1 : groupOf (decodeWord w) = some 1
  · rw [decodeWord_of_groupOf_one h1, fetchPart_decodeGroup1]
    exact operateFetch_ignoresSr (group1Sequence_ignoresSr _) _
  · by_cases h2 : groupOf (decodeWord w) = some 2
    · have hosr : (group2Bits w).osr = false := 
        Bool.eq_false_iff.2 fun ho => h ((masked_eq_osr_iff w).2 ⟨h2, ho⟩)
      rw [decodeWord_of_groupOf_two h2, funext (fetchPart_decodeGroup2 _)]
      exact operateFetch_ignoresSr (group2Sequence_ignoresSr hosr) _
    · exact fetchPart_other_ignoresSr h1 h2

theorem derefPointer_ignoresSr : IgnoresSr derefPointer := by
  intro s x
  unfold derefPointer
  cases h : isAutoIncrement s.ma <;> simp only [State.setSr_ma, h] <;> rfl

theorem executePart_setSr {i : Instr} {f : State → State} (hp : executePart i = some f) (s : State) (x : Word) :
    f (loadOperand (s.setSr x)) = (f (loadOperand s)).setSr x := by
  cases i with
  | and | tad | dca | jms => cases hp; rfl
  | isz => cases hp; simp only [iszEffect_loadOperand]; rfl
  | _ => cases hp

/-- A step from a state that is not in Fetch of a word with the OSR bit does the same for every SR. -/
theorem step_setSr_cases {s : State} (h : ¬ (s.cycle = .fetch ∧ s.readMem s.pc &&& 0o7405 = 0o7404)) (x : Word) :
    (∃ t, step s = .next t ∧ step (s.setSr x) = .next (t.setSr x)) ∨
      ∃ f, step s = .fault f ∧ step (s.setSr x) = .fault f := by
  cases hf : s.fault with
  | some k => exact .inr ⟨_, step_of_fault hf, step_of_fault (s := s.setSr x) hf⟩
  | none =>
    cases hc : s.cycle with
    | fetch =>
      refine .inl ⟨_, step_fetch hf hc, (step_fetch (s := s.setSr x) hf hc).trans ?_⟩
      exact congrArg Host.Outcome.next <| fetchPart_ignoresSr (w := s.readMem s.pc) (fun hm => h ⟨hc, hm⟩)
        { s with cyc := s.cyc + 1, mb := s.readMem s.pc, ir := s.readMem s.pc, pc := s.pc + 1 } x
    | defer =>
      refine .inl ⟨_, step_defer hf hc, (step_defer (s := s.setSr x) hf hc).trans ?_⟩
      rw [derefPointer_ignoresSr s x]
      cases hj : isJmp (decodeWord s.ir) <;> simp only [State.setSr_ir, hj] <;> rfl
    | execute =>
      cases hp : executePart (decodeWord s.ir) with
      | none => exact .inr ⟨_, step_execute_none hf hc hp, step_execute_none (s := s.setSr x) hf hc hp⟩
      | some f =>
        refine .inl ⟨_, step_execute_some hf hc hp, (step_execute_some (s := s.setSr x) hf hc hp).trans ?_⟩
        rw [executePart_setSr hp s x]
        rfl
    | brk => exact .inl ⟨_, step_brk hf hc, step_brk (s := s.setSr x) hf hc⟩

end Sys2Proof.Machine
end

section
/-! PROOFS. The statements about the state record and its access matrix (spec/10_state.md). -/

namespace Sys2Proof.Proofs

open Sys2Proof.Machine Sys2Proof.Claims

/-- Settles O37: only a Fetch part writes RUN, and it clears RUN exactly for the HLT bit of a Group 2 word. -/
theorem onlyHltClearsTheRunFlag : Obligations.OnlyHltClearsTheRunFlag := by
  unfold Obligations.OnlyHltClearsTheRunFlag
  intro s t h
  by_cases hc : s.cycle = .fetch
  · rw [step_fetch (step_next h).1 hc] at h
    cases h
    rw [fetchPart_run, hc]
    rfl
  · rw [(step_keeps_run_sr hc h).1, beq_false_of_ne hc, Bool.false_and, Bool.not_false, Bool.and_true]

/-- Settles O38: the parts of a step commute with writing SR, but for the Fetch part of a word with the OSR bit. -/
theorem onlyOsrReadsTheSwitchRegister : Obligations.OnlyOsrReadsTheSwitchRegister := by
  unfold Obligations.OnlyOsrReadsTheSwitchRegister
  refine ⟨fun s t h => ?_, fun s x h => ?_⟩
  · by_cases hc : s.cycle = .fetch
    · rw [step_fetch (step_next h).1 hc] at h
      cases h
      exact fetchPart_sr _ _
    · exact (step_keeps_run_sr hc h).2
  · rcases step_setSr_cases h x with ⟨t, ht, hx⟩ | ⟨f, ht, hx⟩
    · simp only [ht, show step { s with sr := x } = _ from hx]
      rfl
    · simp only [ht, show step { s with sr := x } = _ from hx]

/-- Settles O39: by the cycle state of the step; in Fetch by the operate group of the word, in Execute by the opcode. -/
theorem registerWritersAreThoseOfTheAccessMatrix : Obligations.RegisterWritersAreThoseOfTheAccessMatrix := by
  unfold Obligations.RegisterWritersAreThoseOfTheAccessMatrix
  intro s t h
  rcases step_next_cases h with ⟨hc, rfl⟩ | ⟨hc, rfl⟩ | ⟨hc, f, hp, rfl⟩ | ⟨hc, rfl⟩
  · refine ⟨fun ha => .inr ⟨hc, ?_⟩, fun hl => .inr ⟨hc, ?_⟩, fun _ => .inl hc, fun hr => ⟨hc, ?_⟩⟩
    · by_contra ho
      exact ha (fetchPart_ac ho _)
    · by_contra hg
      exact hl (fetchPart_l hg _)
    · by_contra hg
      exact hr (fetchPart_run_of_not_group2 hg _)
  · obtain ⟨ma, mb, m, hd⟩ := derefPointer_frame s
    rw [hd]
    cases hj : isJmp (decodeWord s.ir)
    · simp
    · simp [hc, (isJmp_decodeWord_iff s.ir).1 hj]
  · rcases executePart_decodeWord_cases hp with ⟨ho, rfl⟩ | ⟨ho, rfl⟩ | ⟨ho, rfl⟩ | ⟨ho, rfl⟩ | ⟨ho, rfl⟩
    · simp [hc, ho, andEffect_loadOperand]
    · simp [hc, ho, tadEffect_loadOperand]
    · simp [hc, ho, iszEffect_loadOperand]
    · simp [hc, ho, dcaEffect_loadOperand]
    · simp [hc, ho, jmsEffect_loadOperand]
  · simp

/-- Settles O1: the values of the reset state, and the empty memory, whose unlisted cells read 0. -/
theorem constructionZeroesTheMachine : Obligations.ConstructionZeroesTheMachine := by
  unfold Obligations.ConstructionZeroesTheMachine
  exact ⟨by decide, by decide, fun _ => rfl⟩

/-- Settles O20: step tests FAULT first. -/
theorem faultedStateTakesNoStep : Obligations.FaultedStateTakesNoStep := by
  unfold Obligations.FaultedStateTakesNoStep
  exact fun _ _ => step_of_fault

/-- Settles O50: a 12-bit word holds the number modulo 4096. -/
theorem setSwitchRegisterWritesOnlySr : Obligations.SetSwitchRegisterWritesOnlySr := by
  unfold Obligations.SetSwitchRegisterWritesOnlySr
  exact fun word _ => ⟨BitVec.toNat_ofNat word 12, rfl⟩

/-- Settles O51: by the operation of the driver. -/
theorem driverMovesLeaveTheInstructionAlone : Obligations.DriverMovesLeaveTheInstructionAlone := by
  unfold Obligations.DriverMovesLeaveTheInstructionAlone
  intro s
  refine ⟨⟨rfl, rfl, rfl, fun w => ?_, fun _ => rfl⟩, fun m hm => ?_⟩
  · exact congrArg s.setSr (BitVec.eq_of_toNat_eq (by simp))
  · cases m with
    | step => exact absurd rfl hm
    | driver op => cases op <;> exact ⟨_, rfl, rfl⟩

end Sys2Proof.Proofs
end

section
/-! SUPPORT. A canonical memory is determined by its cells: it reads 0 below its first listed address and not there
(spec/20_memory.md R50, R51; notes/assumptions/1.md). -/

namespace Sys2Proof.Machine

theorem Memory.wfFrom_cons {lo k : Nat} {x : Word} {m : Memory} :
    Memory.wfFrom lo ((k, x) :: m) = true ↔ lo ≤ k ∧ k < 4096 ∧ x ≠ 0 ∧ Memory.wfFrom (k + 1) m = true := by
  simp [Memory.wfFrom, and_assoc]

theorem Memory.read_cons_same (k : Nat) (x : Word) (m : Memory) : Memory.read ((k, x) :: m) k = x := if_pos rfl

theorem Memory.read_cons_other {k a : Nat} (h : k ≠ a) (x : Word) (m : Memory) :
    Memory.read ((k, x) :: m) a = m.read a := if_neg h

theorem Memory.read_eq_zero_of_lt {m : Memory} {lo a : Nat} (h : Memory.wfFrom lo m = true) (ha : a < lo) :
    m.read a = 0 := by
  induction m generalizing lo with
  | nil => rfl
  | cons c m ih =>
    obtain ⟨k, x⟩ := c
    obtain ⟨hlo, -, -, hm⟩ := Memory.wfFrom_cons.1 h
    rw [Memory.read_cons_other (by omega)]
    exact ih hm (by omega)

/-- A cell whose word is not 0 is at or above the first listed address. -/
theorem Memory.head_le_of_read_ne_zero {lo k a : Nat} {x : Word} {m : Memory}
    (h : Memory.wfFrom lo ((k, x) :: m) = true) (ha : Memory.read ((k, x) :: m) a ≠ 0) : k ≤ a := by
  obtain ⟨-, hk, hx, hm⟩ := Memory.wfFrom_cons.1 h
  by_contra hlt
  exact ha (Memory.read_eq_zero_of_lt (Memory.wfFrom_cons.2 ⟨le_rfl, hk, hx, hm⟩) (by omega))

theorem Memory.eq_of_wfFrom {m m' : Memory} {lo lo' : Nat} (h : Memory.wfFrom lo m = true)
    (h' : Memory.wfFrom lo' m' = true) (hr : ∀ a, a < 4096 → m.read a = m'.read a) : m = m' := by
  induction m generalizing m' lo lo' with
  | nil =>
    cases m' with
    | nil => rfl
    | cons c' m' =>
      obtain ⟨k', x'⟩ := c'
      obtain ⟨-, hk', hx', -⟩ := Memory.wfFrom_cons.1 h'
      exact absurd ((hr k' hk').trans (Memory.read_cons_same k' x' m')).symm hx'
  | cons c m ih =>
    obtain ⟨k, x⟩ := c
    obtain ⟨-, hk, hx, hm⟩ := Memory.wfFrom_cons.1 h
    have hread := Memory.read_cons_same k x m
    cases m' with
    | nil => exact absurd (hread.symm.trans (hr k hk)) hx
    | cons c' m' =>
      obtain ⟨k', x'⟩ := c'
      obtain ⟨-, hk', hx', hm'⟩ := Memory.wfFrom_cons.1 h'
      have hread' := Memory.read_cons_same k' x' m'
      obtain rfl : k = k' := Nat.le_antisymm
        (Memory.head_le_of_read_ne_zero h (by rwa [hr k' hk', hread']))
        (Memory.head_le_of_read_ne_zero h' (by rwa [← hr k hk, hread]))
      obtain rfl : x = x' := hread.symm.trans ((hr k hk).trans hread')
      have tails (a : Nat) (ha : a < 4096) : Memory.read m a = Memory.read m' a := by
        by_cases hka : k = a
        · rw [Memory.read_eq_zero_of_lt hm (by omega), Memory.read_eq_zero_of_lt hm' (by omega)]
        · rw [← Memory.read_cons_other hka x m, hr a ha, Memory.read_cons_other hka]
      rw [ih hm hm' tails]

end Sys2Proof.Machine
end

section
/-! SUPPORT. What a step reads and writes of memory (spec/20_memory.md R56). A Fetch part commutes with replacing
memory; Defer's pointer and an Execute part write every register alike when the replacement holds the same word at
MA. -/

namespace Sys2Proof.Machine

open Sys2Proof.Claims

theorem applyIf_commute {f g : State → State} (h : Function.Commute f g) (b : Bool) :
    Function.Commute (applyIf b f) g := by
  cases b
  · exact Function.Commute.id_left
  · exact h

section
variable (m : Memory)

theorem operateFetch_setMem {f : State → State} (hf : Function.Commute f (State.setMem · m)) (c : BitVec 8) :
    Function.Commute (operateFetch c f) (State.setMem · m) :=
  fun s => congrArg (State.setCycle · .fetch) (hf (latchControl c s))

theorem group1Sequence_setMem (g : Group1) : Function.Commute (group1Sequence g) (State.setMem · m) := by
  have rr : Function.Commute rotateRight (State.setMem · m) := fun _ => rfl
  have rl : Function.Commute rotateLeft (State.setMem · m) := fun _ => rfl
  have c1 : Function.Commute clearAc (State.setMem · m) := fun _ => rfl
  have c2 : Function.Commute clearLink (State.setMem · m) := fun _ => rfl
  have c3 : Function.Commute complementAc (State.setMem · m) := fun _ => rfl
  have c4 : Function.Commute complementLink (State.setMem · m) := fun _ => rfl
  have c5 : Function.Commute incrementAc (State.setMem · m) := fun _ => rfl
  have clears := (applyIf_commute c2 g.cll).comp_left (applyIf_commute c1 g.cla)
  have complements := (applyIf_commute c4 g.cml).comp_left (applyIf_commute c3 g.cma)
  have rights := (applyIf_commute rr (g.rar && g.two)).comp_left (applyIf_commute rr g.rar)
  have lefts := (applyIf_commute rl (g.ral && g.two)).comp_left (applyIf_commute rl g.ral)
  exact (lefts.comp_left rights).comp_left
    ((applyIf_commute c5 g.iac).comp_left (complements.comp_left clears))

theorem group2Sequence_setMem (g : Group2) : Function.Commute (group2Sequence g) (State.setMem · m) := by
  have skip : Function.Commute skipNext (State.setMem · m) := fun _ => rfl
  have cla : Function.Commute clearAc (State.setMem · m) := fun _ => rfl
  have osr : Function.Commute orSwitches (State.setMem · m) := fun _ => rfl
  have hlt : Function.Commute haltRun (State.setMem · m) := fun _ => rfl
  have test : Function.Commute (fun s => applyIf (group2Skip g s.ac s.l) skipNext s) (State.setMem · m) :=
    fun s => applyIf_commute skip (group2Skip g s.ac s.l) s
  exact (applyIf_commute hlt g.hlt).comp_left
    ((applyIf_commute osr g.osr).comp_left ((applyIf_commute cla g.cla).comp_left test))

theorem fetchPart_other_setMem {i : Instr} (h1 : groupOf i ≠ some 1) (h2 : groupOf i ≠ some 2) :
    Function.Commute (fetchPart i) (State.setMem · m) := by
  cases i with
  | and | tad | isz | dca | jms | iot | opr3 => exact fun _ => rfl
  | jmp indirect => cases indirect <;> exact fun _ => rfl
  | opr2 | sma | sza | snl | spa | sna | szl | skp | cla2 | osr | hlt | nop2 | las => exact absurd rfl h2
  | _ => exact absurd rfl h1

/-- The Fetch part of a word neither reads nor writes memory: the word is already read (R102). -/
theorem fetchPart_setMem (w : Word) : Function.Commute (fetchPart (decodeWord w)) (State.setMem · m) := by
  by_cases h1 : groupOf (decodeWord w) = some 1
  · rw [decodeWord_of_groupOf_one h1, fetchPart_decodeGroup1]
    exact operateFetch_setMem m (group1Sequence_setMem m _) _
  · by_cases h2 : groupOf (decodeWord w) = some 2
    · rw [decodeWord_of_groupOf_two h2, funext (fetchPart_decodeGroup2 _)]
      exact operateFetch_setMem m (group2Sequence_setMem m _) _
    · exact fetchPart_other_setMem m h1 h2

end

theorem fetchPart_mem (w : Word) (s : State) : (fetchPart (decodeWord w) s).mem = s.mem := by
  have h : fetchPart (decodeWord w) s = (fetchPart (decodeWord w) s).setMem s.mem := fetchPart_setMem s.mem w s
  rw [h, State.setMem_mem]

section
variable {s : State} {m : Memory}

/-- Defer reads the pointer cell alone (R105). -/
theorem derefPointer_setMem (h : m.read s.ma.toNat = s.readMem s.ma) :
    ∃ m', derefPointer (s.setMem m) = (derefPointer s).setMem m' := by
  have hr : (s.setMem m).readMem s.ma = s.readMem s.ma := h
  cases ha : isAutoIncrement s.ma
  · rw [derefPointer_plain ha, derefPointer_plain (s := s.setMem m) ha, State.setMem_ma, hr]
    exact ⟨m, rfl⟩
  · rw [derefPointer_auto ha, derefPointer_auto (s := s.setMem m) ha, State.setMem_ma, hr]
    exact ⟨_, rfl⟩

/-- An Execute part reads the operand cell alone (R108). -/
theorem executePart_setMem {i : Instr} {f : State → State} (hp : executePart i = some f)
    (h : m.read s.ma.toNat = s.readMem s.ma) :
    ∃ m', f (loadOperand (s.setMem m)) = (f (loadOperand s)).setMem m' := by
  have hr : (s.setMem m).readMem s.ma = s.readMem s.ma := h
  have hl : loadOperand (s.setMem m) = (loadOperand s).setMem m := congrArg (s.setMem m).setMb hr
  cases i with
  | and | tad | dca | jms => cases hp; rw [hl]; exact ⟨_, rfl⟩
  | isz => cases hp; simp only [iszEffect_loadOperand, State.setMem_ma, hr]; exact ⟨_, rfl⟩
  | _ => cases hp

/-- A step over a memory with the same word at the cell it reads answers the same but for memory (R56). -/
theorem step_setMem_cases (hpc : s.cycle = .fetch → m.read s.pc.toNat = s.readMem s.pc)
    (hma : s.cycle = .defer ∨ s.cycle = .execute → m.read s.ma.toNat = s.readMem s.ma) :
    (∃ t m', step s = .next t ∧ step (s.setMem m) = .next (t.setMem m')) ∨
      ∃ f, step s = .fault f ∧ step (s.setMem m) = .fault f := by
  cases hf : s.fault with
  | some k => exact .inr ⟨_, step_of_fault hf, step_of_fault (s := s.setMem m) hf⟩
  | none =>
    cases hc : s.cycle with
    | fetch =>
      refine .inl ⟨_, m, step_fetch hf hc, (step_fetch (s := s.setMem m) hf hc).trans ?_⟩
      have hr : (s.setMem m).readMem s.pc = s.readMem s.pc := hpc hc
      rw [State.setMem_pc, hr]
      exact congrArg Host.Outcome.next <| fetchPart_setMem m (s.readMem s.pc)
        { s with cyc := s.cyc + 1, mb := s.readMem s.pc, ir := s.readMem s.pc, pc := s.pc + 1 }
    | defer =>
      obtain ⟨m', hd⟩ := derefPointer_setMem (hma (.inl hc))
      refine .inl ⟨_, m', step_defer hf hc, (step_defer (s := s.setMem m) hf hc).trans ?_⟩
      rw [hd]
      cases hj : isJmp (decodeWord s.ir) <;> simp only [State.setMem_ir, hj] <;> rfl
    | execute =>
      cases hp : executePart (decodeWord s.ir) with
      | none => exact .inr ⟨_, step_execute_none hf hc hp, step_execute_none (s := s.setMem m) hf hc hp⟩
      | some f =>
        obtain ⟨m', he⟩ := executePart_setMem hp (hma (.inr hc))
        have hx := step_execute_some (s := s.setMem m) hf hc hp
        refine .inl ⟨_, m', step_execute_some hf hc hp, hx.trans ?_⟩
        rw [he]
        rfl
    | brk => exact .inl ⟨_, m, step_brk hf hc, step_brk (s := s.setMem m) hf hc⟩

end

/-- What an Execute part leaves at an address: only ISZ, DCA and JMS store, and only at MA (R135 to R137). -/
theorem executePart_readMem_cases {w : Word} {f : State → State} (hp : executePart (decodeWord w) = some f)
    (s : State) (b : Word) :
    (f (loadOperand s)).readMem b = s.readMem b ∨
      (opcodeOf w = .isz ∨ opcodeOf w = .dca ∨ opcodeOf w = .jms) ∧ b = s.ma := by
  have store (v : Word) : (s.writeMem s.ma v).readMem b = s.readMem b ∨ b = s.ma := by
    by_cases hb : b = s.ma
    · exact .inr hb
    · exact .inl ((State.readMem_writeMem s s.ma b v).trans (if_neg hb))
  rcases executePart_decodeWord_cases hp with ⟨-, rfl⟩ | ⟨-, rfl⟩ | ⟨ho, rfl⟩ | ⟨ho, rfl⟩ | ⟨ho, rfl⟩
  · exact .inl rfl
  · exact .inl rfl
  · rw [iszEffect_loadOperand]
    exact (store _).imp_right (⟨.inl ho, ·⟩)
  · exact (store s.ac).imp_right (⟨.inr (.inl ho), ·⟩)
  · exact (store s.pc).imp_right (⟨.inr (.inr ho), ·⟩)

end Sys2Proof.Machine
end

section
/-! PROOFS. The statements about memory (spec/20_memory.md). -/

namespace Sys2Proof.Proofs

open Sys2Proof.Machine Sys2Proof.Claims

/-- Settles O2, by induction on the two lists of cells: their first listed addresses agree, and so do the rests. -/
theorem canonicalMemoriesWithEqualCellsAreEqual : Obligations.CanonicalMemoriesWithEqualCellsAreEqual := by
  unfold Obligations.CanonicalMemoriesWithEqualCellsAreEqual
  exact fun _ _ => Memory.eq_of_wfFrom

/-- Settles O40, by the cycle state of the step: Fetch and Break keep memory, Defer and Execute store at MA alone. -/
theorem onlyDeferAndExecuteWriteMemoryAtMa : Obligations.OnlyDeferAndExecuteWriteMemoryAtMa := by
  unfold Obligations.OnlyDeferAndExecuteWriteMemoryAtMa
  intro s t b h hb
  rcases step_next_cases h with ⟨-, rfl⟩ | ⟨hc, rfl⟩ | ⟨hc, f, hp, rfl⟩ | ⟨-, rfl⟩
  · exact absurd (congrArg (Memory.read · b.toNat) (fetchPart_mem _ _)) hb
  · have hd : (derefPointer s).readMem b ≠ s.readMem b := by
      cases hj : isJmp (decodeWord s.ir) <;> rw [hj] at hb <;> exact hb
    rw [derefPointer_readMem] at hd
    obtain ⟨ha, rfl⟩ := by_contra fun hn => hd (if_neg hn)
    exact ⟨rfl, .inl ⟨hc, (isAutoIncrement_iff s.ma).1 ha⟩⟩
  · obtain ⟨ho, hma⟩ := (executePart_readMem_cases hp s b).resolve_left hb
    exact ⟨hma, .inr ⟨hc, ho⟩⟩
  · exact absurd rfl hb

/-- Settles O41: each part of a step does the same but for memory when the cell it reads holds the same word. -/
theorem stepReadsOneCellOfMemory : Obligations.StepReadsOneCellOfMemory := by
  unfold Obligations.StepReadsOneCellOfMemory
  intro s m h
  have hpc (hc : s.cycle = .fetch) : m.read s.pc.toNat = s.readMem s.pc := by simpa only [hc] using h
  have hma (hc : s.cycle = .defer ∨ s.cycle = .execute) : m.read s.ma.toNat = s.readMem s.ma := by
    rcases hc with hc | hc <;> simpa only [hc] using h
  rcases step_setMem_cases hpc hma with ⟨t, m', ht, hx⟩ | ⟨f, ht, hx⟩
  · simp only [ht, show step { s with mem := m } = _ from hx]
    rfl
  · simp only [ht, show step { s with mem := m } = _ from hx]

end Sys2Proof.Proofs
end

section
/-! SUPPORT. The decoder and the encoder are inverse to each other on each family of words: memory references and IOT by
their fields, group words by their control field (spec/30_encoding.md R70 to R82). -/

namespace Sys2Proof

open Sys2Proof.Machine Sys2Proof.Claims

/-- The number of an opcode (R78, D1). -/
def Opcode.number : Opcode → BitVec 3
  | .and => 0
  | .tad => 1
  | .isz => 2
  | .dca => 3
  | .jms => 4
  | .jmp => 5
  | .iot => 6
  | .opr => 7

theorem opcodeOf_eq_iff (w : Word) (op : Opcode) : opcodeOf w = op ↔ opcodeField w = op.number := by
  have hf (f : BitVec 3) : opcodeOfField f = op ↔ f = op.number := by
    revert f
    cases op <;> decide
  exact hf (opcodeField w)

/-! Memory references and IOT. -/

theorem opcodeOf_memRefWord (op : Opcode) (i p : Bool) (o : Offset) :
    opcodeOf (memRefWord op.number i p o) = op :=
  (opcodeOf_eq_iff _ op).2 (opcodeField_memRefWord op.number i p o)

theorem memRefWord_fields {w : Word} {op : Opcode} (h : opcodeOf w = op) :
    memRefWord op.number (indirectBit w) (pageBit w) (offsetField w) = w := by
  rw [← (opcodeOf_eq_iff w op).1 h]
  simp only [word_eq_iff_bits, Fin.forall_fin_succ, memRefWord, opcodeField, indirectBit, pageBit, offsetField,
    BitVec.getLsbD_append]
  simp

theorem decodeWord_memRefWord (op : Opcode) {mk : Bool → Bool → Offset → Instr}
    (hd : ∀ w, opcodeOf w = op → decodeWord w = mk (indirectBit w) (pageBit w) (offsetField w))
    (i p : Bool) (o : Offset) : decodeWord (memRefWord op.number i p o) = mk i p o := by
  rw [hd _ (opcodeOf_memRefWord op i p o), indirectBit_memRefWord, pageBit_memRefWord, offsetField_memRefWord]

theorem decodeWord_iotWord (c : BitVec 9) : decodeWord (6#3 ++ c) = .iot c := by
  have ho : opcodeOf (6#3 ++ c) = .iot := (opcodeOf_eq_iff _ .iot).2 BitVec.extractLsb'_append_eq_left
  have hc : controlField (6#3 ++ c) = c := BitVec.extractLsb'_append_eq_right
  rw [decodeWord_iot ho, hc]

theorem iotWord_control {w : Word} (h : opcodeOf w = .iot) : 6#3 ++ controlField w = w := by
  have ho : opcodeField w = 6#3 := (opcodeOf_eq_iff w .iot).1 h
  rw [← ho]
  exact (BitVec.extractLsb'_append_extractLsb'_eq_extractLsb' rfl).trans BitVec.extractLsb'_eq_self

/-! Group words, by their control field. -/

theorem opcodeOf_operateWord {f : BitVec 4} (c : BitVec 8) (h : f.extractLsb' 1 3 = 7) :
    opcodeOf (f ++ c) = .opr :=
  (opcodeOf_eq_iff _ .opr).2 ((BitVec.extractLsb'_append_eq_of_le (by decide)).trans h)

theorem decodeWord_group1Word (g : Group1) : decodeWord (0b1110#4 ++ g.control) = decodeGroup1 g := by
  have ho : opcodeOf (0b1110#4 ++ g.control) = .opr := opcodeOf_operateWord g.control (by decide)
  have h8 : (0b1110#4 ++ g.control).getLsbD 8 = false := by simp only [BitVec.getLsbD_append]; simp
  have hg : group1Bits (0b1110#4 ++ g.control) = g := by
    simp only [group1Bits, Group1.control, BitVec.getLsbD_append]
    simp
  rw [decodeWord_opr ho, decodeOperate, if_pos h8, hg]

theorem decodeWord_group2Word (g : Group2) : decodeWord (0b1111#4 ++ g.control) = decodeGroup2 g := by
  have ho : opcodeOf (0b1111#4 ++ g.control) = .opr := opcodeOf_operateWord g.control (by decide)
  have h8 : (0b1111#4 ++ g.control).getLsbD 8 = true := by simp only [BitVec.getLsbD_append]; simp
  have h0 : (0b1111#4 ++ g.control).getLsbD 0 = false := by
    simp only [Group2.control, BitVec.getLsbD_append]
    simp
  have hg : group2Bits (0b1111#4 ++ g.control) = g := by
    simp only [group2Bits, Group2.control, BitVec.getLsbD_append]
    simp
  rw [decodeWord_opr ho, decodeOperate, if_neg (by simp [h8]), if_pos h0, hg]

theorem decodeWord_group3Word (b : BitVec 7) : decodeWord (0b1111#4 ++ b ++ 1#1) = .opr3 b := by
  have ho : opcodeOf (0b1111#4 ++ b ++ 1#1) = .opr :=
    (opcodeOf_eq_opr_iff _).2 (by simp only [BitVec.getLsbD_append]; simp)
  have h8 : (0b1111#4 ++ b ++ 1#1).getLsbD 8 = true := by simp only [BitVec.getLsbD_append]; simp
  have h0 : (0b1111#4 ++ b ++ 1#1).getLsbD 0 = true := by simp only [BitVec.getLsbD_append]; simp
  have hb : (0b1111#4 ++ b ++ 1#1).extractLsb' 1 7 = b := by
    rw [BitVec.extractLsb'_append_eq_of_le le_rfl]
    exact BitVec.extractLsb'_append_eq_right
  rw [decodeWord_opr ho, decodeOperate, if_neg (by simp [h8]), if_neg (by simp [h0]), hb]

theorem group1Word_control {w : Word} (ho : opcodeOf w = .opr) (h8 : w.getLsbD 8 = false) :
    0b1110#4 ++ (group1Bits w).control = w := by
  obtain ⟨h11, h10, h9⟩ := (opcodeOf_eq_opr_iff w).1 ho
  rw [group1Bits_control, word_eq_iff_bits]
  simp only [Fin.forall_fin_succ, BitVec.getLsbD_append]
  simp_all

theorem group2Word_control {w : Word} (ho : opcodeOf w = .opr) (h8 : w.getLsbD 8 = true)
    (h0 : w.getLsbD 0 = false) : 0b1111#4 ++ (group2Bits w).control = w := by
  obtain ⟨h11, h10, h9⟩ := (opcodeOf_eq_opr_iff w).1 ho
  rw [group2Bits_control h0, word_eq_iff_bits]
  simp only [Fin.forall_fin_succ, BitVec.getLsbD_append]
  simp_all

theorem group3Word_bits {w : Word} (ho : opcodeOf w = .opr) (h8 : w.getLsbD 8 = true)
    (h0 : w.getLsbD 0 = true) : 0b1111#4 ++ w.extractLsb' 1 7 ++ 1#1 = w := by
  obtain ⟨h11, h10, h9⟩ := (opcodeOf_eq_opr_iff w).1 ho
  rw [word_eq_iff_bits]
  simp only [Fin.forall_fin_succ, BitVec.getLsbD_append]
  simp_all

/-! The instruction of a control field: its own name when the field has one, else `opr1` or `opr2` (R82, R87). -/

theorem lookup_group1Names_eq_none_iff (g : Group1) :
    group1Names.lookup g = none ↔ (Instr.opr1 g).wellFormed = true := by
  simp [List.lookup_eq_none_iff, group1Names, Instr.wellFormed, namedGroup1]

theorem lookup_group2Names_eq_none_iff (g : Group2) :
    group2Names.lookup g = none ↔ (Instr.opr2 g).wellFormed = true := by
  simp [List.lookup_eq_none_iff, group2Names, Instr.wellFormed, namedGroup2]

theorem decodeGroup1_of_wellFormed {g : Group1} (h : (Instr.opr1 g).wellFormed = true) :
    decodeGroup1 g = .opr1 g := by
  rw [decodeGroup1, (lookup_group1Names_eq_none_iff g).2 h, Option.getD_none]

theorem decodeGroup2_of_wellFormed {g : Group2} (h : (Instr.opr2 g).wellFormed = true) :
    decodeGroup2 g = .opr2 g := by
  rw [decodeGroup2, (lookup_group2Names_eq_none_iff g).2 h, Option.getD_none]

/-- The looked-up instruction is well-formed when every named one is, and the other one where no name stands. -/
theorem lookup_getD_wellFormed {α : Type} [DecidableEq α] {names : List (α × Instr)} {other : Instr} {g : α}
    (hn : ∀ p ∈ names, p.2.wellFormed = true) (ho : names.lookup g = none → other.wellFormed = true) :
    ((names.lookup g).getD other).wellFormed = true := by
  cases h : names.lookup g with
  | none => exact ho h
  | some i =>
    obtain ⟨l₁, l₂, rfl, -⟩ := List.lookup_eq_some_iff.1 h
    exact hn (g, i) (by simp)

theorem decodeGroup1_wellFormed (g : Group1) : (decodeGroup1 g).wellFormed = true :=
  lookup_getD_wellFormed (by decide) (lookup_group1Names_eq_none_iff g).1

theorem decodeGroup2_wellFormed (g : Group2) : (decodeGroup2 g).wellFormed = true :=
  lookup_getD_wellFormed (by decide) (lookup_group2Names_eq_none_iff g).1

theorem encode_decodeGroup1 (g : Group1) : encode (decodeGroup1 g) = 0b1110#4 ++ g.control :=
  decodeGroup1_induction (P := fun g i => encode i = 0b1110#4 ++ g.control) (by decide) (fun _ => rfl) g

theorem encode_decodeGroup2 (g : Group2) : encode (decodeGroup2 g) = 0b1111#4 ++ g.control :=
  decodeGroup2_induction (P := fun g i => encode i = 0b1111#4 ++ g.control) (by decide) (fun _ => rfl) g

/-! All families together. -/

theorem decodeWord_encode {i : Instr} (h : i.wellFormed = true) : decodeWord (encode i) = i := by
  cases i with
  | and i p o => exact decodeWord_memRefWord .and (fun _ => decodeWord_and) i p o
  | tad i p o => exact decodeWord_memRefWord .tad (fun _ => decodeWord_tad) i p o
  | isz i p o => exact decodeWord_memRefWord .isz (fun _ => decodeWord_isz) i p o
  | dca i p o => exact decodeWord_memRefWord .dca (fun _ => decodeWord_dca) i p o
  | jms i p o => exact decodeWord_memRefWord .jms (fun _ => decodeWord_jms) i p o
  | jmp i p o => exact decodeWord_memRefWord .jmp (fun _ => decodeWord_jmp) i p o
  | iot c => exact decodeWord_iotWord c
  | opr1 g => exact (decodeWord_group1Word g).trans (decodeGroup1_of_wellFormed h)
  | opr2 g => exact (decodeWord_group2Word g).trans (decodeGroup2_of_wellFormed h)
  | opr3 b => exact decodeWord_group3Word b
  | _ => rfl

theorem decodeWord_wellFormed (w : Word) : (decodeWord w).wellFormed = true := by
  cases ho : opcodeOf w with
  | opr =>
    rw [decodeWord_opr ho]
    rcases decodeOperate_cases w with ⟨-, hd⟩ | ⟨-, -, hd⟩ | ⟨-, -, hd⟩
    · exact hd ▸ decodeGroup1_wellFormed _
    · exact hd ▸ decodeGroup2_wellFormed _
    · exact hd ▸ rfl
  | _ => simp only [decodeWord, ho, Instr.wellFormed]

theorem encode_decodeWord (w : Word) : encode (decodeWord w) = w := by
  cases ho : opcodeOf w with
  | iot => exact (congrArg encode (decodeWord_iot ho)).trans (iotWord_control ho)
  | opr =>
    rw [decodeWord_opr ho]
    rcases decodeOperate_cases w with ⟨h8, hd⟩ | ⟨h8, h0, hd⟩ | ⟨h8, h0, hd⟩
    · rw [hd, encode_decodeGroup1, group1Word_control ho h8]
    · rw [hd, encode_decodeGroup2, group2Word_control ho h8 h0]
    · exact hd ▸ group3Word_bits ho h8 h0
  | _ =>
    have hw := memRefWord_fields ho
    simpa only [decodeWord, ho, encode, Opcode.number] using hw

/-! The group of a word and the unimplemented words, by the masks of R79 and R84. -/

theorem opcodeOf_eq_iot_iff (w : Word) :
    opcodeOf w = .iot ↔ w.getLsbD 11 = true ∧ w.getLsbD 10 = true ∧ w.getLsbD 9 = false := by
  have hf (f : BitVec 3) :
      opcodeOfField f = .iot ↔ f.getLsbD 2 = true ∧ f.getLsbD 1 = true ∧ f.getLsbD 0 = false := by
    revert f; decide
  simp [opcodeOf, hf, opcodeField]

theorem masked_eq_iot_iff (w : Word) : w &&& 0o7000 = 0o6000 ↔ opcodeOf w = .iot := by
  have bits : w &&& 0o7000 = 0o6000 ↔ w.getLsbD 9 = false ∧ w.getLsbD 10 = true ∧ w.getLsbD 11 = true := by
    simp [word_eq_iff_bits, Fin.forall_fin_succ]
  rw [bits, opcodeOf_eq_iot_iff]
  tauto

theorem groupOf_eq_three_iff (w : Word) :
    groupOf (decodeWord w) = some 3 ↔ opcodeOf w = .opr ∧ w.getLsbD 8 = true ∧ w.getLsbD 0 = true := by
  by_cases ho : opcodeOf w = .opr
  · rw [groupOf_decodeWord_of_opr ho]
    cases w.getLsbD 8 <;> cases w.getLsbD 0 <;> simp [ho]
  · simp [groupOf_decodeWord_of_not_opr ho, ho]

theorem masked_eq_group3_iff (w : Word) : w &&& 0o7401 = 0o7401 ↔ groupOf (decodeWord w) = some 3 := by
  have bits : w &&& 0o7401 = 0o7401 ↔ w.getLsbD 0 = true ∧ w.getLsbD 8 = true ∧
      w.getLsbD 9 = true ∧ w.getLsbD 10 = true ∧ w.getLsbD 11 = true := by
    simp [word_eq_iff_bits, Fin.forall_fin_succ]
  rw [bits, groupOf_eq_three_iff, opcodeOf_eq_opr_iff]
  tauto

end Sys2Proof
end

section
/-! SUPPORT. What raises NotImplemented, and that a named group word is in every cycle state what its group's word is
(spec/30_encoding.md R82, R84). -/

namespace Sys2Proof.Machine

open Sys2Proof.Claims

/-- Operate instructions of Groups 1 and 2 differ in Fetch alone (R100, R115). -/
theorem exec_eq_of_fetchPart_eq {i j : Instr} {n : Nat} (hi : groupOf i = some n) (hj : groupOf j = some n)
    (hf : ∀ s, fetchPart i s = fetchPart j s) (s : State) : exec i s = exec j s := by
  rw [exec_byCycle, exec_byCycle, isJmp_of_groupOf hi, isJmp_of_groupOf hj, executePart_of_groupOf hi,
    executePart_of_groupOf hj, funext hf]

/-- FAULT after the Fetch part: set by an IOT or a third-group word alone (R113, R161, R217). -/
theorem fetchPart_fault (w : Word) (s : State) :
    (fetchPart (decodeWord w) s).fault =
      if opcodeOf w = .iot ∨ groupOf (decodeWord w) = some 3 then some .notImplemented else s.fault := by
  cases ho : opcodeOf w with
  | iot => rw [decodeWord_iot ho]; rfl
  | opr =>
    rcases decodeOperate_cases w with ⟨-, hd⟩ | ⟨-, -, hd⟩ | ⟨-, -, hd⟩ <;> rw [← decodeWord_opr ho] at hd
    · have hg : groupOf (decodeWord w) = some 1 := hd ▸ groupOf_decodeGroup1 _
      obtain ⟨_, _, _, he⟩ := fetchPart_group1_frame hg s
      rw [he, hg]
      rfl
    · have hg : groupOf (decodeWord w) = some 2 := hd ▸ groupOf_decodeGroup2 _
      obtain ⟨_, _, _, he⟩ := fetchPart_group2_frame hg s
      rw [he, hg]
      rfl
    · rw [hd]
      rfl
  | jmp =>
    rw [decodeWord_jmp ho]
    cases indirectBit w <;> rfl
  | _ => simp only [decodeWord, ho]; rfl

/-- Outside Fetch a step writes neither SR, IR, RUN, FAULT nor SS (R105 to R111). -/
theorem step_other_frame {s t : State} (hc : s.cycle ≠ .fetch) (h : step s = .next t) :
    ∃ pc ac l ma mb c n k m,
      t = { s with pc := pc, ac := ac, l := l, ma := ma, mb := mb, cycle := c, cyc := n, ins := k, mem := m } := by
  rcases step_next_cases h with ⟨hf, -⟩ | ⟨-, rfl⟩ | ⟨-, f, hp, rfl⟩ | ⟨-, rfl⟩
  · exact absurd hf hc
  · obtain ⟨_, _, _, hd⟩ := derefPointer_frame s
    rw [hd]
    split <;> exact ⟨_, _, _, _, _, _, _, _, _, rfl⟩
  · obtain ⟨_, _, _, _, _, he⟩ := executePart_frame hp s
    rw [he]
    exact ⟨_, _, _, _, _, _, _, _, _, rfl⟩
  · exact ⟨_, _, _, _, _, _, _, _, _, rfl⟩

end Sys2Proof.Machine
end

section
/-! PROOFS. The statements about the encoding (spec/30_encoding.md). -/

namespace Sys2Proof.Proofs

open Sys2Proof.Machine Sys2Proof.Claims

/-- Settles O3, by the constructor of the instruction: each family's word gives back its fields. -/
theorem decodeOfEncodeIsTheInstruction : Obligations.DecodeOfEncodeIsTheInstruction := by
  unfold Obligations.DecodeOfEncodeIsTheInstruction
  exact fun _ => decodeWord_encode

/-- Settles O19: only a Fetch part writes FAULT, and it does for the words of R84's two masks. -/
theorem onlyUnimplementedWordsRaiseNotImplemented : Obligations.OnlyUnimplementedWordsRaiseNotImplemented := by
  unfold Obligations.OnlyUnimplementedWordsRaiseNotImplemented
  intro s t h
  have hf := (step_next h).1
  by_cases hc : s.cycle = .fetch
  · rw [step_fetch hf hc] at h
    cases h
    simp only [fetchPart_fault, hc, masked_eq_iot_iff, masked_eq_group3_iff, hf, true_and]
  · obtain ⟨_, _, _, _, _, _, _, _, _, rfl⟩ := step_other_frame hc h
    rw [if_neg fun hn => hc hn.1]
    exact hf

/-- Settles O29: the two instructions have the same Fetch part, and outside Fetch all operate instructions are alike. -/
theorem namedWordsAreTheirGroupWords : Obligations.NamedWordsAreTheirGroupWords := by
  unfold Obligations.NamedWordsAreTheirGroupWords
  refine ⟨fun g => ?_, fun g => ?_⟩
  · exact exec_eq_of_fetchPart_eq (groupOf_decodeGroup1 g) rfl (congrFun (fetchPart_decodeGroup1 g))
  · exact exec_eq_of_fetchPart_eq (groupOf_decodeGroup2 g) rfl (fetchPart_decodeGroup2 g)

/-- Settles O4, by the opcode of the word and, for OPR, its group. -/
theorem everyWordIsTheEncodingOfItsInstruction : Obligations.EveryWordIsTheEncodingOfItsInstruction := by
  unfold Obligations.EveryWordIsTheEncodingOfItsInstruction
  exact fun w => ⟨decodeWord_wellFormed w, encode_decodeWord w⟩

/-- Settles O5: the masks 0o400 and 0o001 test bits 8 and 0. -/
theorem operateGroupsAreChosenByTwoBits : Obligations.OperateGroupsAreChosenByTwoBits := by
  unfold Obligations.OperateGroupsAreChosenByTwoBits
  intro w
  have h8 : w &&& 0o400 = 0 ↔ w.getLsbD 8 = false := by simp [word_eq_iff_bits, Fin.forall_fin_succ]
  have h0 : w &&& 0o001 = 0 ↔ w.getLsbD 0 = false := by simp [word_eq_iff_bits, Fin.forall_fin_succ]
  by_cases ho : opcodeOf w = .opr
  · simp only [groupOf_decodeWord_of_opr ho, ho, if_true, h8, h0]
  · rw [groupOf_decodeWord_of_not_opr ho, if_neg ho]

/-- Settles O6: the decoder evaluated on the twelve words. -/
theorem sampleWordsDecodeAsTheSpecSays : Obligations.SampleWordsDecodeAsTheSpecSays := by
  unfold Obligations.SampleWordsDecodeAsTheSpecSays
  decide

end Sys2Proof.Proofs
end

section
/-! SUPPORT. The address a word names and the pointer Defer makes of a cell, in the terms of the statements
(spec/30_encoding.md R75; spec/40_cycle_engine.md R105, R106). -/

namespace Sys2Proof.Machine

open Sys2Proof.Claims

theorem effectiveAddress_word (w pcn : Word) :
    effectiveAddress (pageBit w) (offsetField w) pcn = eaOf w pcn := by
  rw [effectiveAddress_eq, offsetField_setWidth]
  rfl

theorem eaOf_memRefWord (op : BitVec 3) (i p : Bool) (o : Offset) (pcn : Word) :
    eaOf (memRefWord op i p o) pcn = effectiveAddress p o pcn := by
  rw [← effectiveAddress_word, pageBit_memRefWord, offsetField_memRefWord]

theorem latchControl_eaOf (w : Word) (s : State) : latchControl (w.setWidth 8) s = s.setMa (eaOf w s.pc) := by
  rw [latchControl_word, effectiveAddress_word]

/-- The next word as arithmetic modulo 4096 (R134). -/
theorem ofNat_succ_mod (v : Word) : BitVec.ofNat 12 ((v.toNat + 1) % 4096) = v + 1 :=
  BitVec.eq_of_toNat_eq (by simp)

theorem pointerAt_of_inAutoRange {a : Word} (h : inAutoRange a) (s : State) : pointerAt s a = s.readMem a + 1 :=
  if_pos h

theorem pointerAt_of_not_inAutoRange {a : Word} (h : ¬ inAutoRange a) (s : State) : pointerAt s a = s.readMem a :=
  if_neg h

/-- Defer's pointer goes to MA and MB, and back into its cell alone (R105, R106, D6). -/
theorem derefPointer_pointerAt (s : State) :
    ∃ m : Memory, derefPointer s = { s with ma := pointerAt s s.ma, mb := pointerAt s s.ma, mem := m } ∧
      ∀ b : Word, m.read b.toNat = if b = s.ma then pointerAt s b else s.readMem b := by
  cases ha : isAutoIncrement s.ma
  · have hp : pointerAt s s.ma = s.readMem s.ma :=
      pointerAt_of_not_inAutoRange (fun h => Bool.false_ne_true (ha.symm.trans ((isAutoIncrement_iff s.ma).2 h))) s
    refine ⟨s.mem, by rw [derefPointer_plain ha, hp], fun b => ?_⟩
    split
    · next hb => rw [hb, hp]; rfl
    · rfl
  · have hp : pointerAt s s.ma = s.readMem s.ma + 1 :=
      pointerAt_of_inAutoRange ((isAutoIncrement_iff s.ma).1 ha) s
    refine ⟨_, by rw [derefPointer_auto ha, hp], fun b => ?_⟩
    rw [Memory.read_write_word]
    split
    · next hb => rw [hb, hp]
    · rfl

/-! The five instructions with an Execute part, as one family. -/

theorem fetchPart_of_mem_executed :
    ∀ f ∈ executed, ∀ i p o, fetchPart (f i p o) = memRefFetch i p o := by
  simp [executed, fetchPart]

theorem isJmp_of_mem_executed : ∀ f ∈ executed, ∀ i p o, isJmp (f i p o) = false := by
  simp [executed, isJmp]

theorem encode_of_mem_executed : ∀ f ∈ executed, ∃ op, ∀ i p o, encode (f i p o) = memRefWord op i p o := by
  simp only [executed, List.forall_mem_cons]
  exact ⟨⟨_, fun _ _ _ => rfl⟩, ⟨_, fun _ _ _ => rfl⟩, ⟨_, fun _ _ _ => rfl⟩, ⟨_, fun _ _ _ => rfl⟩,
    ⟨_, fun _ _ _ => rfl⟩, by simp⟩

end Sys2Proof.Machine
end

section
/-! SUPPORT. The Fetch part of a word, by its opcode and, for OPR, its group: an equation for each, and what they have
in common (spec/40_cycle_engine.md R101 to R104, R113). -/

namespace Sys2Proof.Machine

open Sys2Proof.Claims

/-- Where Fetch of a word leaves STATE (R101). -/
def cycleAfterFetch (w : Word) : Cycle :=
  match opcodeOf w with
  | .iot | .opr => .fetch
  | .jmp => if indirectBit w then .defer else .fetch
  | .and | .tad | .isz | .dca | .jms => if indirectBit w then .defer else .execute

theorem hasExecutePart_eq_false_iff (op : Opcode) :
    hasExecutePart op = false ↔ op = .jmp ∨ op = .iot ∨ op = .opr := by
  cases op <;> decide

theorem cycleAfterFetch_of_hasExecutePart {w : Word} (h : hasExecutePart (opcodeOf w) = true) :
    cycleAfterFetch w = if indirectBit w then .defer else .execute := by
  unfold cycleAfterFetch
  cases ho : opcodeOf w with
  | jmp | iot | opr => simp [ho, hasExecutePart] at h
  | _ => rfl

theorem cycleAfterFetch_of_jmp {w : Word} (h : opcodeOf w = .jmp) :
    cycleAfterFetch w = if indirectBit w then .defer else .fetch := by
  simp only [cycleAfterFetch, h]

theorem fetchPart_memRef {w : Word} (h : hasExecutePart (opcodeOf w) = true) (s : State) :
    fetchPart (decodeWord w) s =
      { s with ma := eaOf w s.pc, cycle := if indirectBit w then .defer else .execute } := by
  rw [← effectiveAddress_word]
  cases ho : opcodeOf w with
  | jmp | iot | opr => simp [ho, hasExecutePart] at h
  | _ => simp only [decodeWord, ho]; rfl

theorem fetchPart_jmp_indirect {w : Word} (h : opcodeOf w = .jmp) (hi : indirectBit w = true) (s : State) :
    fetchPart (decodeWord w) s = { s with ma := eaOf w s.pc, cycle := .defer } := by
  rw [← effectiveAddress_word, decodeWord_jmp h, hi]
  rfl

theorem fetchPart_jmp_direct {w : Word} (h : opcodeOf w = .jmp) (hi : indirectBit w = false) (s : State) :
    fetchPart (decodeWord w) s = { s with ma := eaOf w s.pc, pc := eaOf w s.pc, cycle := .fetch } := by
  rw [← effectiveAddress_word, decodeWord_jmp h, hi]
  rfl

theorem decodeWord_of_groupOf_three {w : Word} (h : groupOf (decodeWord w) = some 3) :
    decodeWord w = .opr3 (w.extractLsb' 1 7) := by
  obtain ⟨ho, h8, h0⟩ := (groupOf_eq_three_iff w).1 h
  rw [decodeWord_opr ho, decodeOperate, h8, h0]
  rfl

theorem fetchPart_unimplemented {w : Word} (h : opcodeOf w = .iot ∨ groupOf (decodeWord w) = some 3) (s : State) :
    fetchPart (decodeWord w) s = { s with ma := eaOf w s.pc, fault := some .notImplemented } := by
  have hl : (latchControl (w.setWidth 8) s).setFault (some .notImplemented) =
      { s with ma := eaOf w s.pc, fault := some .notImplemented } := by
    rw [latchControl_eaOf]
    rfl
  rcases h with h | h
  · rw [← hl, ← controlField_setWidth, decodeWord_iot h]
    rfl
  · rw [← hl, ← opr3_control ((groupOf_eq_three_iff w).1 h).2.2, decodeWord_of_groupOf_three h]
    rfl

/-- Groups 1 and 2: besides MA, only AC, L, RUN and, by one skip, PC (R186, R218). -/
theorem fetchPart_operate {w : Word} (ho : opcodeOf w = .opr) (h3 : groupOf (decodeWord w) ≠ some 3) (s : State) :
    ∃ pc a l r, (pc = s.pc ∨ pc = s.pc + 1) ∧
      fetchPart (decodeWord w) s =
        { s with pc := pc, ac := a, l := l, ma := eaOf w s.pc, run := r, cycle := .fetch } := by
  rw [decodeWord_opr ho] at h3 ⊢
  rcases decodeOperate_cases w with ⟨-, hd⟩ | ⟨-, h0, hd⟩ | ⟨-, -, hd⟩
  · obtain ⟨a, l, hg⟩ := group1Sequence_changesAcL (group1Bits w) (s.setMa (eaOf w s.pc))
    refine ⟨s.pc, a, l, s.run, .inl rfl, ?_⟩
    rw [hd, fetchPart_decodeGroup1, operateFetch, group1Bits_control, latchControl_eaOf, hg]
    rfl
  · obtain ⟨a, r, hg⟩ := group2Sequence_frame (group2Bits w) (s.setMa (eaOf w s.pc))
    have hpc := (ite_eq_or_eq (group2Skip (group2Bits w) s.ac s.l = true) (s.pc + 1) s.pc).symm
    refine ⟨_, a, s.l, r, hpc, ?_⟩
    rw [hd, fetchPart_decodeGroup2, operateFetch, group2Bits_control h0, latchControl_eaOf, hg]
    rfl
  · exact absurd (congrArg groupOf hd) h3

/-- Every Fetch part latches the effective address, and writes neither MB, SR, IR, the counters, memory nor SS. -/
theorem fetchPart_frame (w : Word) (s : State) :
    ∃ pc a l r c k, fetchPart (decodeWord w) s =
      { s with pc := pc, ac := a, l := l, ma := eaOf w s.pc, run := r, cycle := c, fault := k } := by
  cases ho : opcodeOf w with
  | iot => exact ⟨_, _, _, _, _, _, fetchPart_unimplemented (.inl ho) s⟩
  | opr =>
    by_cases h3 : groupOf (decodeWord w) = some 3
    · exact ⟨_, _, _, _, _, _, fetchPart_unimplemented (.inr h3) s⟩
    · obtain ⟨_, _, _, _, -, he⟩ := fetchPart_operate ho h3 s
      exact ⟨_, _, _, _, _, _, he⟩
  | jmp =>
    cases hi : indirectBit w
    · exact ⟨_, _, _, _, _, _, fetchPart_jmp_direct ho hi s⟩
    · exact ⟨_, _, _, _, _, _, fetchPart_jmp_indirect ho hi s⟩
  | _ => exact ⟨_, _, _, _, _, _, fetchPart_memRef (by rw [ho]; rfl) s⟩

theorem fetchPart_cycle {s : State} (h : s.cycle = .fetch) (w : Word) :
    (fetchPart (decodeWord w) s).cycle = cycleAfterFetch w := by
  cases ho : opcodeOf w with
  | iot =>
    rw [fetchPart_unimplemented (.inl ho), cycleAfterFetch, ho]
    exact h
  | opr =>
    rw [cycleAfterFetch, ho]
    by_cases h3 : groupOf (decodeWord w) = some 3
    · rw [fetchPart_unimplemented (.inr h3)]
      exact h
    · obtain ⟨_, _, _, _, -, he⟩ := fetchPart_operate ho h3 s
      rw [he]
  | jmp =>
    rw [cycleAfterFetch_of_jmp ho]
    cases hi : indirectBit w
    · rw [fetchPart_jmp_direct ho hi]
      rfl
    · rw [fetchPart_jmp_indirect ho hi]
      rfl
  | _ =>
    have hx : hasExecutePart (opcodeOf w) = true := by rw [ho]; rfl
    rw [fetchPart_memRef hx, cycleAfterFetch_of_hasExecutePart hx]

/-- PC after a Fetch part: a direct JMP goes to its address, an OPR word may skip, all others keep it (R104, R210). -/
theorem fetchPart_pc (w : Word) (s : State) :
    if opcodeOf w = .jmp ∧ indirectBit w = false then (fetchPart (decodeWord w) s).pc = eaOf w s.pc
    else if opcodeOf w = .opr then
      (fetchPart (decodeWord w) s).pc = s.pc ∨ (fetchPart (decodeWord w) s).pc = s.pc + 1
    else (fetchPart (decodeWord w) s).pc = s.pc := by
  cases ho : opcodeOf w with
  | iot => simp [fetchPart_unimplemented (.inl ho)]
  | opr =>
    by_cases h3 : groupOf (decodeWord w) = some 3
    · simp [fetchPart_unimplemented (.inr h3)]
    · obtain ⟨_, _, _, _, hpc, he⟩ := fetchPart_operate ho h3 s
      simpa [he] using hpc
  | jmp =>
    cases hi : indirectBit w
    · simp [fetchPart_jmp_direct ho hi]
    · simp [fetchPart_jmp_indirect ho hi]
  | _ => simp [fetchPart_memRef (w := w) (by rw [ho]; rfl)]

end Sys2Proof.Machine
end

section
/-! SUPPORT. What every step does to IR, STATE, the counters and SS, said once; and when a step has a next state
(spec/40_cycle_engine.md R101, R110, R111, R115). -/

namespace Sys2Proof.Machine

open Sys2Proof.Claims

/-- Where a step leaves STATE (R101). -/
def nextCycle (s : State) : Cycle :=
  match s.cycle with
  | .fetch => cycleAfterFetch (s.readMem s.pc)
  | .defer => if isJmp (decodeWord s.ir) then .fetch else .execute
  | .execute => .fetch
  | .brk => .fetch

theorem nextCycle_fetch {s : State} (h : s.cycle = .fetch) : nextCycle s = cycleAfterFetch (s.readMem s.pc) := by
  simp only [nextCycle, h]

theorem nextCycle_defer_jmp {s : State} (h : s.cycle = .defer) (hj : opcodeOf s.ir = .jmp) :
    nextCycle s = .fetch := by
  simp only [nextCycle, h, (isJmp_decodeWord_iff s.ir).2 hj, if_true]

theorem nextCycle_defer_other {s : State} (h : s.cycle = .defer) (hj : opcodeOf s.ir ≠ .jmp) :
    nextCycle s = .execute := by
  simp only [nextCycle, h, if_neg (mt (isJmp_decodeWord_iff s.ir).1 hj)]

theorem nextCycle_execute {s : State} (h : s.cycle = .execute) : nextCycle s = .fetch := by simp only [nextCycle, h]

theorem nextCycle_brk {s : State} (h : s.cycle = .brk) : nextCycle s = .fetch := by simp only [nextCycle, h]

/-- No transition enters Break (R101, R109). -/
theorem nextCycle_ne_brk (s : State) : nextCycle s ≠ .brk := by
  cases hc : s.cycle with
  | fetch =>
    rw [nextCycle_fetch hc, cycleAfterFetch]
    cases opcodeOf (s.readMem s.pc) <;> cases indirectBit (s.readMem s.pc) <;> decide
  | defer =>
    simp only [nextCycle, hc]
    cases isJmp (decodeWord s.ir) <;> decide
  | execute => rw [nextCycle_execute hc]; decide
  | brk => rw [nextCycle_brk hc]; decide

/-- The state a Fetch part starts from: the word is read, PC advanced, the cycle counted (R102, R110). -/
def fetched (s : State) : State :=
  { s with cyc := s.cyc + 1, mb := s.readMem s.pc, ir := s.readMem s.pc, pc := s.pc + 1 }

theorem step_fetched {s : State} (hf : s.fault = none) (hc : s.cycle = .fetch) :
    step s = .next (fetchPart (decodeWord (s.readMem s.pc)) (fetched s)) :=
  step_fetch hf hc

/-- Every step fixes IR, STATE and the counters by the state it is taken in, and writes neither SR nor SS. -/
theorem step_frame {s t : State} (h : step s = .next t) :
    ∃ pc a l ma mb r m k, t = { s with
      pc := pc, ac := a, l := l, ma := ma, mb := mb, run := r, mem := m, fault := k
      ir := if s.cycle = .fetch then s.readMem s.pc else s.ir
      cycle := nextCycle s
      cyc := s.cyc + 1
      ins := if nextCycle s = .fetch ∧ s.cycle ≠ .fetch then s.ins + 1 else s.ins } := by
  rcases step_next_cases h with ⟨hc, ht⟩ | ⟨hc, rfl⟩ | ⟨hc, f, hp, rfl⟩ | ⟨hc, rfl⟩
  · have hcycle := fetchPart_cycle (s := fetched s) hc (s.readMem s.pc)
    obtain ⟨pc, a, l, r, c, k, he⟩ := fetchPart_frame (s.readMem s.pc) (fetched s)
    rw [he] at hcycle
    refine ⟨pc, a, l, eaOf (s.readMem s.pc) (s.pc + 1), s.readMem s.pc, r, s.mem, k, ht.trans (he.trans ?_)⟩
    rw [if_pos hc, if_neg fun hn => hn.2 hc, nextCycle_fetch hc, ← hcycle]
    rfl
  · obtain ⟨ma, mb, m, hd⟩ := derefPointer_frame s
    rw [hd]
    cases hj : isJmp (decodeWord s.ir) <;> simp [nextCycle, hc, hj]
  · obtain ⟨pc, a, l, mb, m, he⟩ := executePart_frame hp s
    rw [he]
    simp [nextCycle, hc]
  · simp [nextCycle, hc]

section
variable {s t : State}

theorem step_cycle (h : step s = .next t) : t.cycle = nextCycle s := by
  obtain ⟨_, _, _, _, _, _, _, _, rfl⟩ := step_frame h
  rfl

theorem step_cyc (h : step s = .next t) : t.cyc = s.cyc + 1 := by
  obtain ⟨_, _, _, _, _, _, _, _, rfl⟩ := step_frame h
  rfl

theorem step_ins (h : step s = .next t) :
    t.ins = if nextCycle s = .fetch ∧ s.cycle ≠ .fetch then s.ins + 1 else s.ins := by
  obtain ⟨_, _, _, _, _, _, _, _, rfl⟩ := step_frame h
  rfl

theorem step_ir (h : step s = .next t) : t.ir = if s.cycle = .fetch then s.readMem s.pc else s.ir := by
  obtain ⟨_, _, _, _, _, _, _, _, rfl⟩ := step_frame h
  rfl

theorem step_ss (h : step s = .next t) : t.ss = s.ss := by
  obtain ⟨_, _, _, _, _, _, _, _, rfl⟩ := step_frame h
  rfl

theorem step_cycle_ne_brk (h : step s = .next t) : t.cycle ≠ .brk :=
  step_cycle h ▸ nextCycle_ne_brk s

theorem step_ir_fetch (hc : s.cycle = .fetch) (h : step s = .next t) : t.ir = s.readMem s.pc :=
  (step_ir h).trans (if_pos hc)

theorem step_ir_other (hc : s.cycle ≠ .fetch) (h : step s = .next t) : t.ir = s.ir :=
  (step_ir h).trans (if_neg hc)

/-- FAULT is written in Fetch alone, by an IOT or a third-group word (R113). -/
theorem step_fault_fetch (hc : s.cycle = .fetch) (h : step s = .next t) :
    t.fault =
      if opcodeOf (s.readMem s.pc) = .iot ∨ groupOf (decodeWord (s.readMem s.pc)) = some 3 then some .notImplemented
      else none := by
  have hf := (step_next h).1
  rw [step_fetched hf hc] at h
  cases h
  rw [fetchPart_fault]
  exact congrArg _ hf

theorem step_fault_other (hc : s.cycle ≠ .fetch) (h : step s = .next t) : t.fault = none := by
  obtain ⟨_, _, _, _, _, _, _, _, _, rfl⟩ := step_other_frame hc h
  exact (step_next h).1

end

/-- Defer of any word: the pointer goes to MB and back into its cell alone (R105). -/
theorem step_defer_pointer {s : State} (hf : s.fault = none) (hc : s.cycle = .defer) :
    ∃ t, step s = .next t ∧ t.mb = pointerAt s s.ma ∧
      ∀ b, t.readMem b = if b = s.ma then pointerAt s b else s.readMem b := by
  obtain ⟨m, hd, hm⟩ := derefPointer_pointerAt s
  rw [step_defer hf hc, hd]
  cases isJmp (decodeWord s.ir) <;> exact ⟨_, rfl, rfl, hm⟩

/-! When a step has a next state. -/

theorem executePart_isSome (w : Word) : (executePart (decodeWord w)).isSome = hasExecutePart (opcodeOf w) := by
  cases ho : opcodeOf w with
  | opr => rw [executePart_of_groupOf (groupOf_decodeWord_of_opr ho)]; rfl
  | _ => simp only [decodeWord, ho]; rfl

theorem step_execute_of_not_hasExecutePart {s : State} (hf : s.fault = none) (hc : s.cycle = .execute)
    (h : hasExecutePart (opcodeOf s.ir) = false) : step s = .fault .internalInvariantViolation := by
  rw [← executePart_isSome, Option.isSome_eq_false_iff, Option.isNone_iff_eq_none] at h
  exact step_execute_none hf hc h

/-- A step has a next state but for Execute of a word without an Execute part (R115). -/
theorem step_next_exists {s : State} (hf : s.fault = none)
    (hx : s.cycle = .execute → hasExecutePart (opcodeOf s.ir) = true) : ∃ t, step s = .next t := by
  cases hc : s.cycle with
  | fetch => exact ⟨_, step_fetched hf hc⟩
  | defer => exact ⟨_, step_defer hf hc⟩
  | execute =>
    obtain ⟨f, hp⟩ := Option.isSome_iff_exists.1 ((executePart_isSome s.ir).trans (hx hc))
    exact ⟨_, step_execute_some hf hc hp⟩
  | brk => exact ⟨_, step_brk hf hc⟩

theorem step_next_exists_of_ne_execute {s : State} (hf : s.fault = none) (hc : s.cycle ≠ .execute) :
    ∃ t, step s = .next t :=
  step_next_exists hf fun h => absurd h hc

/-- A row of the table for a step outside Fetch: where STATE goes, and the instruction counted on the way to Fetch
(R101, R111). -/
theorem step_row {s : State} {c : Cycle} (hf : s.fault = none) (hc : s.cycle ≠ .fetch)
    (hx : s.cycle = .execute → hasExecutePart (opcodeOf s.ir) = true) (hn : nextCycle s = c) :
    ∃ t, step s = .next t ∧ t.cycle = c ∧ t.ins = if c = .fetch then s.ins + 1 else s.ins := by
  obtain ⟨t, h⟩ := step_next_exists hf hx
  refine ⟨t, h, (step_cycle h).trans hn, ?_⟩
  simp only [step_ins h, hn, ne_eq, hc, not_false_eq_true, and_true]

end Sys2Proof.Machine
end

section
/-! SUPPORT. Every step keeps each part of the invariant (spec/40_cycle_engine.md R101, R113, R115;
notes/assumptions/1.md). -/

namespace Sys2Proof.Machine

open Sys2Proof.Claims

/-! Memory. -/

theorem executePart_wf {i : Instr} {f : State → State} (hp : executePart i = some f) {s : State}
    (h : s.mem.wf = true) : (f (loadOperand s)).mem.wf = true := by
  cases i with
  | and | tad => cases hp; exact h
  | isz => cases hp; rw [iszEffect_loadOperand]; exact Memory.wf_write _ s.ma.isLt h
  | dca | jms => cases hp; exact Memory.wf_write _ s.ma.isLt h
  | _ => cases hp

theorem step_mem_wf {s t : State} (hm : s.mem.wf = true) (h : step s = .next t) : t.mem.wf = true := by
  rcases step_next_cases h with ⟨-, rfl⟩ | ⟨-, rfl⟩ | ⟨-, f, hp, rfl⟩ | ⟨-, rfl⟩
  · rw [fetchPart_mem]
    exact hm
  · have hd := derefPointer_wf hm
    split <;> exact hd
  · exact executePart_wf hp hm
  · exact hm

/-! STATE and IR. -/

theorem cycleLegal_of_fetch {s : State} (h : s.cycle = .fetch) : cycleLegal s = true := by simp only [cycleLegal, h]

theorem cycleLegal_execute {s : State} (h : s.cycle = .execute) : cycleLegal s = hasExecutePart (opcodeOf s.ir) := by
  simp only [cycleLegal, h]

theorem cycleLegal_defer {s : State} (h : s.cycle = .defer) :
    cycleLegal s = (hasDeferPart (opcodeOf s.ir) && indirectBit s.ir) := by
  simp only [cycleLegal, h]

theorem hasExecutePart_of_hasDeferPart {op : Opcode} (h : hasDeferPart op = true) (hj : op ≠ .jmp) :
    hasExecutePart op = true := by
  cases op with
  | jmp => exact absurd rfl hj
  | iot | opr => exact h
  | _ => rfl

/-- Where Fetch of the word in IR goes is legal with that word. -/
theorem cycleLegal_of_cycleAfterFetch {s : State} (h : s.cycle = cycleAfterFetch s.ir) : cycleLegal s = true := by
  cases ho : opcodeOf s.ir with
  | iot | opr => exact cycleLegal_of_fetch (h.trans (by rw [cycleAfterFetch, ho]))
  | jmp =>
    rw [cycleAfterFetch_of_jmp ho] at h
    cases hi : indirectBit s.ir <;> rw [hi] at h
    · exact cycleLegal_of_fetch h
    · rw [cycleLegal_defer h, ho, hi]; rfl
  | _ =>
    rw [cycleAfterFetch_of_hasExecutePart (by rw [ho]; rfl)] at h
    cases hi : indirectBit s.ir <;> rw [hi] at h
    · rw [cycleLegal_execute h, ho]; rfl
    · rw [cycleLegal_defer h, ho, hi]; rfl

theorem step_cycleLegal {s t : State} (hl : cycleLegal s = true) (h : step s = .next t) : cycleLegal t = true := by
  have hn := step_cycle h
  cases hc : s.cycle with
  | fetch =>
    rw [nextCycle_fetch hc, ← step_ir_fetch hc h] at hn
    exact cycleLegal_of_cycleAfterFetch hn
  | defer =>
    by_cases hj : opcodeOf s.ir = .jmp
    · exact cycleLegal_of_fetch (hn.trans (nextCycle_defer_jmp hc hj))
    · rw [cycleLegal_defer hc, Bool.and_eq_true] at hl
      rw [cycleLegal_execute (hn.trans (nextCycle_defer_other hc hj)), step_ir_other (by simp [hc]) h]
      exact hasExecutePart_of_hasDeferPart hl.1 hj
  | execute => exact cycleLegal_of_fetch (hn.trans (nextCycle_execute hc))
  | brk => exact cycleLegal_of_fetch (hn.trans (nextCycle_brk hc))

/-! FAULT and IR. -/

theorem isUnimplemented_iff (w : Word) :
    isUnimplemented w = true ↔ opcodeOf w = .iot ∨ groupOf (decodeWord w) = some 3 := by
  rw [← masked_eq_iot_iff, ← masked_eq_group3_iff]
  simp only [isUnimplemented, Bool.or_eq_true, beq_iff_eq]

theorem cycleAfterFetch_of_unimplemented {w : Word} (h : opcodeOf w = .iot ∨ groupOf (decodeWord w) = some 3) :
    cycleAfterFetch w = .fetch := by
  rcases h with h | h
  · simp only [cycleAfterFetch, h]
  · simp only [cycleAfterFetch, opcodeOf_eq_opr_of_groupOf h]

theorem faultLegal_of_none {s : State} (h : s.fault = none) : faultLegal s = true := by simp only [faultLegal, h]

theorem step_faultLegal {s t : State} (h : step s = .next t) : faultLegal t = true := by
  by_cases hc : s.cycle = .fetch
  · have hk := step_fault_fetch hc h
    split at hk
    · next hw =>
      have hcycle := (step_cycle h).trans ((nextCycle_fetch hc).trans (cycleAfterFetch_of_unimplemented hw))
      rw [← step_ir_fetch hc h, ← isUnimplemented_iff] at hw
      simp only [faultLegal, hk, hcycle, hw]
      rfl
    · exact faultLegal_of_none hk
  · exact faultLegal_of_none (step_fault_other hc h)

end Sys2Proof.Machine
end

section
/-! SUPPORT. No part of a step depends on RUN, SS or the counters (spec/40_cycle_engine.md R119; spec/10_state.md R37,
R38). -/

namespace Sys2Proof.Machine

open Sys2Proof.Claims

theorem applyIf_induction {P : (State → State) → Prop} (hid : P id) {f : State → State} (hf : P f) (b : Bool) :
    P (applyIf b f) := by
  cases b
  · exact hid
  · exact hf

/-- What a property closed under composition needs to hold of every Group 1 sequence (R171). -/
theorem group1Sequence_induction {P : (State → State) → Prop} (hid : P id) (hcomp : ∀ f g, P f → P g → P (f ∘ g))
    (hcla : P clearAc) (hcll : P clearLink) (hcma : P complementAc) (hcml : P complementLink) (hiac : P incrementAc)
    (hright : P rotateRight) (hleft : P rotateLeft) (g : Group1) : P (group1Sequence g) := by
  have hif {f : State → State} (b : Bool) (hf : P f) : P (applyIf b f) := applyIf_induction hid hf b
  have clears := hcomp _ _ (hif g.cll hcll) (hif g.cla hcla)
  have complements := hcomp _ _ (hif g.cml hcml) (hcomp _ _ (hif g.cma hcma) clears)
  have rights := hcomp _ _ (hif (g.rar && g.two) hright) (hif g.rar hright)
  have lefts := hcomp _ _ (hif (g.ral && g.two) hleft) (hif g.ral hleft)
  exact hcomp _ _ (hcomp _ _ lefts rights) (hcomp _ _ (hif g.iac hiac) complements)

/-- The same for Group 2, whose skip is tested on the state at entry (R201). -/
theorem group2Sequence_induction {P : (State → State) → Prop} (hid : P id) (hcomp : ∀ f g, P f → P g → P (f ∘ g))
    (g : Group2) (hskip : P fun s => applyIf (group2Skip g s.ac s.l) skipNext s) (hcla : P clearAc)
    (hosr : P orSwitches) (hhlt : P haltRun) : P (group2Sequence g) := by
  have hif {f : State → State} (b : Bool) (hf : P f) : P (applyIf b f) := applyIf_induction hid hf b
  exact hcomp _ _ (hif g.hlt hhlt) (hcomp _ _ (hif g.osr hosr) (hcomp _ _ (hif g.cla hcla) hskip))

/-- The same state with other values of what no step reads. -/
def State.setUnread (s : State) (r x : Bool) (c n : Nat) : State := { s with run := r, ss := x, cyc := c, ins := n }

theorem SameButUnread.eq_setUnread {s t : State} (h : SameButUnread s t) :
    ∃ r x c n, t = s.setUnread r x c n :=
  ⟨_, _, _, _, h⟩

/-- Does the same to two states that agree but for what no step reads. -/
def RespectsUnread (f : State → State) : Prop := ∀ s r x c n, SameButUnread (f s) (f (s.setUnread r x c n))

theorem RespectsUnread.comp {f g : State → State} (hf : RespectsUnread f) (hg : RespectsUnread g) :
    RespectsUnread (f ∘ g) := by
  intro s r x c n
  obtain ⟨r', x', c', n', h⟩ := (hg s r x c n).eq_setUnread
  rw [Function.comp_apply, Function.comp_apply, h]
  exact hf (g s) r' x' c' n'

theorem RespectsUnread.applyIf {f : State → State} (hf : RespectsUnread f) (b : Bool) :
    RespectsUnread (applyIf b f) :=
  applyIf_induction (P := RespectsUnread) (fun _ _ _ _ _ => rfl) hf b

theorem operateFetch_respectsUnread {f : State → State} (hf : RespectsUnread f) (c : BitVec 8) :
    RespectsUnread (operateFetch c f) := by
  have latch : RespectsUnread (latchControl c) := fun _ _ _ _ _ => rfl
  have toFetch : RespectsUnread (State.setCycle · .fetch) := fun _ _ _ _ _ => rfl
  exact toFetch.comp (hf.comp latch)

theorem group1Sequence_respectsUnread (g : Group1) : RespectsUnread (group1Sequence g) := by
  refine group1Sequence_induction (P := RespectsUnread) (fun _ _ _ _ _ => rfl) (fun _ _ => RespectsUnread.comp)
    ?_ ?_ ?_ ?_ ?_ ?_ ?_ g <;>
    exact fun _ _ _ _ _ => rfl

theorem group2Sequence_respectsUnread (g : Group2) : RespectsUnread (group2Sequence g) := by
  have skip : RespectsUnread skipNext := fun _ _ _ _ _ => rfl
  refine group2Sequence_induction (P := RespectsUnread) (fun _ _ _ _ _ => rfl) (fun _ _ => RespectsUnread.comp) g
    (fun s => skip.applyIf (group2Skip g s.ac s.l) s) ?_ ?_ ?_ <;>
    exact fun _ _ _ _ _ => rfl

theorem fetchPart_other_respectsUnread {i : Instr} (h1 : groupOf i ≠ some 1) (h2 : groupOf i ≠ some 2) :
    RespectsUnread (fetchPart i) := by
  cases i with
  | and | tad | isz | dca | jms | iot | opr3 => exact fun _ _ _ _ _ => rfl
  | jmp indirect => cases indirect <;> exact fun _ _ _ _ _ => rfl
  | opr2 | sma | sza | snl | spa | sna | szl | skp | cla2 | osr | hlt | nop2 | las => exact absurd rfl h2
  | _ => exact absurd rfl h1

theorem fetchPart_respectsUnread (w : Word) : RespectsUnread (fetchPart (decodeWord w)) := by
  by_cases h1 : groupOf (decodeWord w) = some 1
  · rw [decodeWord_of_groupOf_one h1, fetchPart_decodeGroup1]
    exact operateFetch_respectsUnread (group1Sequence_respectsUnread _) _
  · by_cases h2 : groupOf (decodeWord w) = some 2
    · rw [decodeWord_of_groupOf_two h2, funext (fetchPart_decodeGroup2 _)]
      exact operateFetch_respectsUnread (group2Sequence_respectsUnread _) _
    · exact fetchPart_other_respectsUnread h1 h2

theorem derefPointer_respectsUnread : RespectsUnread derefPointer := by
  intro s r x c n
  cases h : isAutoIncrement s.ma
  · rw [derefPointer_plain h, derefPointer_plain (s := s.setUnread r x c n) h]
    rfl
  · rw [derefPointer_auto h, derefPointer_auto (s := s.setUnread r x c n) h]
    rfl

theorem executePart_respectsUnread {i : Instr} {f : State → State} (hp : executePart i = some f) :
    RespectsUnread (f ∘ loadOperand) := by
  cases i with
  | and | tad | dca | jms => cases hp; exact fun _ _ _ _ _ => rfl
  | isz =>
    cases hp
    intro s r x c n
    simp only [Function.comp_apply, iszEffect_loadOperand]
    rfl
  | _ => cases hp

/-- Two states that agree but for what no step reads take the same step, or none (R119, R37, R38). -/
theorem step_sameButUnread {s s' : State} (h : SameButUnread s s') :
    (∃ t t', step s = .next t ∧ step s' = .next t' ∧ SameButUnread t t') ∨
      ∃ f, step s = .fault f ∧ step s' = .fault f := by
  obtain ⟨r, x, c, n, rfl⟩ := h.eq_setUnread
  cases hf : s.fault with
  | some k => exact .inr ⟨_, step_of_fault hf, step_of_fault (s := s.setUnread r x c n) hf⟩
  | none =>
    cases hc : s.cycle with
    | fetch =>
      exact .inl ⟨_, _, step_fetched hf hc, step_fetched (s := s.setUnread r x c n) hf hc,
        fetchPart_respectsUnread _ (fetched s) r x (c + 1) n⟩
    | defer =>
      refine .inl ⟨_, _, step_defer hf hc, step_defer (s := s.setUnread r x c n) hf hc, ?_⟩
      obtain ⟨_, _, _, _, hd⟩ := (derefPointer_respectsUnread s r x c n).eq_setUnread
      rw [hd]
      cases hj : isJmp (decodeWord s.ir) <;> simp only [State.setUnread, hj] <;> rfl
    | execute =>
      cases hp : executePart (decodeWord s.ir) with
      | none => exact .inr ⟨_, step_execute_none hf hc hp, step_execute_none (s := s.setUnread r x c n) hf hc hp⟩
      | some f =>
        refine .inl ⟨_, _, step_execute_some hf hc hp, step_execute_some (s := s.setUnread r x c n) hf hc hp, ?_⟩
        obtain ⟨_, _, _, _, he⟩ := (executePart_respectsUnread hp s r x c n).eq_setUnread
        rw [Function.comp_apply, Function.comp_apply] at he
        rw [he]
        rfl
    | brk => exact .inl ⟨_, _, step_brk hf hc, step_brk (s := s.setUnread r x c n) hf hc, rfl⟩

end Sys2Proof.Machine
end

section
/-! SUPPORT. Runs: from Fetch to the next instruction boundary, and where run() ends (spec/40_cycle_engine.md R116,
R120, R121). -/

namespace Sys2Proof.Machine

/-! To the next boundary. -/

theorem stepsToBoundary_stop {s t : State} (h : step s = .next t) (hc : t.cycle = .fetch) (fuel : Nat) :
    stepsToBoundary (fuel + 1) s = .next t := by
  simp [stepsToBoundary, h, hc]

theorem stepsToBoundary_step {s t : State} (h : step s = .next t) (hc : t.cycle ≠ .fetch) (hf : t.fault = none)
    (fuel : Nat) : stepsToBoundary (fuel + 1) s = stepsToBoundary fuel t := by
  simp [stepsToBoundary, h, hc, hf]

/-- A step that does not end in Fetch raises nothing (R113). -/
theorem step_fault_of_nextCycle {s t : State} (h : step s = .next t) (hn : nextCycle s ≠ .fetch) : t.fault = none := by
  by_cases hc : s.cycle = .fetch
  · rw [step_fault_fetch hc h, if_neg]
    exact fun hw => hn ((nextCycle_fetch hc).trans (cycleAfterFetch_of_unimplemented hw))
  · exact step_fault_other hc h

/-- From `s` a boundary is reached within `fuel` steps: after `steps` of them, with `count` instructions counted. -/
def ReachesBoundary (fuel : Nat) (s : State) (steps count : Nat) : Prop :=
  ∃ t, stepsToBoundary fuel s = .next t ∧ atBoundary t = true ∧ t.cyc = s.cyc + steps ∧ t.ins = s.ins + count

section
variable {s : State}

/-- The last step of an instruction. -/
theorem reachesBoundary_one {t : State} (h : step s = .next t) (hn : nextCycle s = .fetch) (fuel : Nat) :
    ReachesBoundary (fuel + 1) s 1 (if s.cycle = .fetch then 0 else 1) := by
  have hc := (step_cycle h).trans hn
  refine ⟨t, stepsToBoundary_stop h hc fuel, beq_iff_eq.2 hc, step_cyc h, ?_⟩
  rw [step_ins h]
  by_cases hs : s.cycle = .fetch <;> simp [hs, hn]

/-- A step inside an instruction. -/
theorem reachesBoundary_succ {t : State} {fuel steps count : Nat} (h : step s = .next t) (hn : nextCycle s ≠ .fetch)
    (ht : ReachesBoundary fuel t steps count) : ReachesBoundary (fuel + 1) s (steps + 1) count := by
  obtain ⟨u, hu, hb, hcyc, hins⟩ := ht
  have hc : t.cycle ≠ .fetch := step_cycle h ▸ hn
  refine ⟨u, ?_, hb, ?_, ?_⟩
  · rw [stepsToBoundary_step h hc (step_fault_of_nextCycle h hn), hu]
  · rw [hcyc, step_cyc h]
    omega
  · rw [hins, step_ins h, if_neg fun hs => hn hs.1]

theorem reachesBoundary_execute (hf : s.fault = none) (hc : s.cycle = .execute)
    (hx : hasExecutePart (opcodeOf s.ir) = true) (fuel : Nat) : ReachesBoundary (fuel + 1) s 1 1 := by
  obtain ⟨t, h⟩ := step_next_exists hf fun _ => hx
  simpa [hc] using reachesBoundary_one h (nextCycle_execute hc) fuel

theorem reachesBoundary_defer_jmp (hf : s.fault = none) (hc : s.cycle = .defer) (hj : opcodeOf s.ir = .jmp)
    (fuel : Nat) : ReachesBoundary (fuel + 1) s 1 1 := by
  obtain ⟨t, h⟩ := step_next_exists_of_ne_execute hf (by simp [hc])
  simpa [hc] using reachesBoundary_one h (nextCycle_defer_jmp hc hj) fuel

theorem ne_jmp_of_hasExecutePart {op : Opcode} (h : hasExecutePart op = true) : op ≠ .jmp := by
  rintro rfl
  cases h

theorem reachesBoundary_defer (hf : s.fault = none) (hc : s.cycle = .defer)
    (hx : hasExecutePart (opcodeOf s.ir) = true) (fuel : Nat) : ReachesBoundary (fuel + 2) s 2 1 := by
  obtain ⟨t, h⟩ := step_next_exists_of_ne_execute hf (by simp [hc])
  have hn := nextCycle_defer_other hc (ne_jmp_of_hasExecutePart hx)
  have hir := step_ir_other (by simp [hc]) h
  exact reachesBoundary_succ h (by simp [hn]) <|
    reachesBoundary_execute (step_fault_of_nextCycle h (by simp [hn])) ((step_cycle h).trans hn) (hir ▸ hx) fuel

/-! The instructions from Fetch on, as the table of R140 counts them. -/

theorem reachesBoundary_memRef (hf : s.fault = none) (hc : s.cycle = .fetch)
    (hx : hasExecutePart (opcodeOf (s.readMem s.pc)) = true) :
    ReachesBoundary 3 s (if indirectBit (s.readMem s.pc) then 3 else 2) 1 := by
  obtain ⟨t, h⟩ := step_next_exists_of_ne_execute hf (by simp [hc])
  have hn := (nextCycle_fetch hc).trans (cycleAfterFetch_of_hasExecutePart hx)
  rw [← step_ir_fetch hc h] at hx
  cases hi : indirectBit (s.readMem s.pc) <;> rw [hi] at hn
  · exact reachesBoundary_succ h (by simp [hn]) <|
      reachesBoundary_execute (step_fault_of_nextCycle h (by simp [hn])) ((step_cycle h).trans hn) hx 1
  · exact reachesBoundary_succ h (by simp [hn]) <|
      reachesBoundary_defer (step_fault_of_nextCycle h (by simp [hn])) ((step_cycle h).trans hn) hx 0

theorem reachesBoundary_jmp (hf : s.fault = none) (hc : s.cycle = .fetch) (hj : opcodeOf (s.readMem s.pc) = .jmp) :
    ReachesBoundary 3 s (if indirectBit (s.readMem s.pc) then 2 else 1)
      (if indirectBit (s.readMem s.pc) then 1 else 0) := by
  obtain ⟨t, h⟩ := step_next_exists_of_ne_execute hf (by simp [hc])
  have hn := (nextCycle_fetch hc).trans (cycleAfterFetch_of_jmp hj)
  rw [← step_ir_fetch hc h] at hj
  cases hi : indirectBit (s.readMem s.pc) <;> rw [hi] at hn
  · simpa [hc] using reachesBoundary_one h hn 2
  · exact reachesBoundary_succ h (by simp [hn]) <|
      reachesBoundary_defer_jmp (step_fault_of_nextCycle h (by simp [hn])) ((step_cycle h).trans hn) hj 1

theorem reachesBoundary_inFetch (hf : s.fault = none) (hc : s.cycle = .fetch)
    (hw : cycleAfterFetch (s.readMem s.pc) = .fetch) : ReachesBoundary 3 s 1 0 := by
  obtain ⟨t, h⟩ := step_next_exists_of_ne_execute hf (by simp [hc])
  simpa [hc] using reachesBoundary_one h ((nextCycle_fetch hc).trans hw) 2

end

/-! run(). -/

theorem runTest_eq_false_iff (s : State) : runTest s = false ↔ s.run = false ∨ s.ss = true ∨ s.fault ≠ none := by
  unfold runTest
  cases s.run <;> cases s.ss <;> cases s.fault <;> simp

/-- The loop test fails in the state in which a run ends (R120). -/
theorem runTest_of_ended {schedule : List (List DriverOp)} {s t : State} (h : runSchedule schedule s = .ended t) :
    runTest t = false := by
  induction schedule generalizing s with
  | nil =>
    cases hr : runTest s <;> simp [runSchedule, hr] at h
    exact h ▸ hr
  | cons ops rest ih =>
    cases hr : runTest (applyOps ops s)
    · rw [runSchedule_cons_ended hr] at h
      cases h
      exact hr
    · cases hs : step (applyOps ops s) with
      | next u =>
        rw [runSchedule_cons_step hr hs] at h
        exact ih h
      | fault f => simp [runSchedule, hr, hs] at h
      | refused r => simp [runSchedule, hr, hs] at h

/-- One more driver operation that makes the loop test fail ends a run where it stands (R118). -/
theorem runSchedule_append_op {schedule : List (List DriverOp)} {s t : State}
    (h : runSchedule schedule s = .running t) {op : DriverOp} (hop : runTest (op.apply t) = false) :
    runSchedule (schedule ++ [[op]]) s = .ended (op.apply t) :=
  (runSchedule_append h [[op]]).trans (runSchedule_cons_ended (ops := [op]) hop [])

end Sys2Proof.Machine
end

section
/-! PROOFS. The statements about the engine's cycle (spec/40_cycle_engine.md). -/

namespace Sys2Proof.Proofs

open Sys2Proof.Machine Sys2Proof.Claims

/-- Settles O43: each part of the invariant is kept by itself. -/
theorem everyStepKeepsTheInvariant : Obligations.EveryStepKeepsTheInvariant := by
  unfold Obligations.EveryStepKeepsTheInvariant
  rintro s t ⟨hm, hl, -⟩ h
  exact ⟨step_mem_wf hm h, step_cycleLegal hl h, step_faultLegal h⟩

/-- Settles O16: Defer puts the pointer into MB and back into its cell, whatever the word in IR. -/
theorem deferIncrementsOnlyAutoIncrementCells : Obligations.DeferIncrementsOnlyAutoIncrementCells := by
  unfold Obligations.DeferIncrementsOnlyAutoIncrementCells
  intro s hf hc
  obtain ⟨t, h, hmb, hr⟩ := step_defer_pointer hf hc
  have hma : t.readMem s.ma = pointerAt s s.ma := (hr s.ma).trans (if_pos rfl)
  refine ⟨t, h, fun ha => ⟨?_, hma.trans hmb.symm⟩, fun ha => ?_, fun b hb => (hr b).trans (if_neg hb)⟩
  · rw [hmb, pointerAt_of_inAutoRange ha, ofNat_succ_mod]
  · rw [hmb, hma, pointerAt_of_not_inAutoRange ha]
    exact ⟨rfl, rfl⟩

/-- Settles O18: the Fetch part of an unimplemented word, on the state in which the word is read. -/
theorem notImplementedStepKeepsTheFetchWrites : Obligations.NotImplementedStepKeepsTheFetchWrites := by
  unfold Obligations.NotImplementedStepKeepsTheFetchWrites
  intro s hf hc w hw
  rw [masked_eq_group3_iff] at hw
  rw [step_fetched hf hc, fetchPart_unimplemented hw]
  rfl

/-- Settles O21: JMP, IOT and OPR are the opcodes without an Execute part. -/
theorem stepsFailOnlyOnExecuteOfJmpIotOpr : Obligations.StepsFailOnlyOnExecuteOfJmpIotOpr := by
  unfold Obligations.StepsFailOnlyOnExecuteOfJmpIotOpr
  intro s hf
  simp only [← hasExecutePart_eq_false_iff]
  split
  · next h => exact step_execute_of_not_hasExecutePart hf h.1 h.2
  · next h => exact step_next_exists hf fun hc => Bool.eq_true_of_not_eq_false fun hx => h ⟨hc, hx⟩

/-- Settles O31: the Fetch part of every word latches its address; where it leaves PC depends on the opcode. -/
theorem everyFetchMakesTheFetchWrites : Obligations.EveryFetchMakesTheFetchWrites := by
  unfold Obligations.EveryFetchMakesTheFetchWrites
  intro s hf hc w
  have hpc := fetchPart_pc w (fetched s)
  obtain ⟨_, _, _, _, _, _, he⟩ := fetchPart_frame w (fetched s)
  refine ⟨_, step_fetched hf hc, congrArg State.mb he, congrArg State.ir he, congrArg State.ma he, ?_⟩
  rw [congrArg State.ma he]
  have h2 : s.pc + 2 = s.pc + 1 + 1 := by bv_omega
  rw [h2]
  exact hpc

/-- Settles O32: a row of the table is the next cycle state and whether the step returns to Fetch. -/
theorem transitionTable : Obligations.TransitionTable := by
  unfold Obligations.TransitionTable
  intro s hf
  refine ⟨?_, fun hc hj => ?_, fun hc hx => ?_, fun hc hx => ?_, fun hc hx => ?_, fun hc => ?_,
    fun t h => step_cycle_ne_brk h⟩
  · intro hc w
    obtain ⟨t, h⟩ := step_next_exists_of_ne_execute hf (by simp [hc])
    refine ⟨t, h, ?_, ?_, ?_⟩
    · rw [step_ins h, if_neg fun hn => hn.2 hc]
    · rw [step_cycle h, nextCycle_fetch hc, cycleAfterFetch]
      cases opcodeOf w <;> rfl
    · rw [step_fault_fetch hc h, ← groupOf_eq_three_iff, Option.ite_none_right_eq_some]
      exact and_iff_left rfl
  · exact step_row hf (by simp [hc]) (by simp [hc]) (nextCycle_defer_jmp hc hj)
  · exact step_row hf (by simp [hc]) (by simp [hc]) (nextCycle_defer_other hc (ne_jmp_of_hasExecutePart hx))
  · exact step_row hf (by simp [hc]) (fun _ => hx) (nextCycle_execute hc)
  · exact step_execute_of_not_hasExecutePart hf hc hx
  · exact step_row hf (by simp [hc]) (by simp [hc]) (nextCycle_brk hc)

/-- Settles O33: Break's equation, and that no row of the table leads to Break. -/
theorem breakPassesThroughToFetch : Obligations.BreakPassesThroughToFetch := by
  unfold Obligations.BreakPassesThroughToFetch
  exact ⟨fun _ => step_brk, fun _ _ => step_cycle_ne_brk⟩

/-- Settles O34: the count is made before the instruction's own part, which leaves CYC alone. -/
theorem everyStepCountsOneCycle : Obligations.EveryStepCountsOneCycle := by
  unfold Obligations.EveryStepCountsOneCycle
  exact fun _ _ => step_cyc

/-- Settles O35: the instruction's own part leaves INS alone. -/
theorem instructionCounterCountsReturnsToFetch : Obligations.InstructionCounterCountsReturnsToFetch := by
  unfold Obligations.InstructionCounterCountsReturnsToFetch
  intro s t h
  rw [step_ins h, step_cycle h]

/-- Settles O36: every part of a step does the same to two such states. -/
theorem stepReadsNeitherRunNorSwitchNorCounters : Obligations.StepReadsNeitherRunNorSwitchNorCounters := by
  unfold Obligations.StepReadsNeitherRunNorSwitchNorCounters
  intro s s' h
  rcases step_sameButUnread h with ⟨t, t', ht, ht', hs⟩ | ⟨f, hf, hf'⟩
  · simp only [ht, ht']
    exact ⟨hs, step_ss ht, step_ss ht'⟩
  · simp only [hf, hf']

/-- Settles O47, by the opcode of the word at PC. -/
theorem everyInstructionReachesABoundary : Obligations.EveryInstructionReachesABoundary := by
  unfold Obligations.EveryInstructionReachesABoundary
  intro s hf hc w
  change ReachesBoundary 3 s _ _
  cases ho : opcodeOf w with
  | iot | opr => exact reachesBoundary_inFetch hf hc (by rw [cycleAfterFetch, ho])
  | jmp => exact reachesBoundary_jmp hf hc ho
  | _ => exact reachesBoundary_memRef hf hc (by rw [ho]; rfl)

/-- Settles O53: the loop test is what ends a run, by induction on the schedule. -/
theorem runEndsOnlyWhenItsTestFails : Obligations.RunEndsOnlyWhenItsTestFails := by
  unfold Obligations.RunEndsOnlyWhenItsTestFails
  refine ⟨fun s fuel hs => runFor_stopped ((runTest_eq_false_iff s).2 hs) fuel, ?_, ?_, ?_⟩
  · rintro s t ⟨schedule, h⟩
    exact (runTest_eq_false_iff t).1 (runTest_of_ended h)
  · intro schedule s t h
    refine ⟨runSchedule_append_op h (op := .stop) ?_, runSchedule_append_op h (op := .setSingleStep true) ?_⟩
    · exact (runTest_eq_false_iff _).2 (.inl rfl)
    · exact (runTest_eq_false_iff _).2 (.inr (.inl rfl))
  · rintro s t ⟨schedule, h, hs⟩
    have hf : t.fault = none := by
      rw [h] at hs
      exact Option.isNone_iff_eq_none.1 hs
    rcases (runTest_eq_false_iff t).1 (runTest_of_ended h) with hr | hss | hk
    · exact ⟨hf, .inl hr⟩
    · exact ⟨hf, .inr hss⟩
    · exact absurd hf hk

/-- Settles O12: the five instructions share their Fetch part. -/
theorem memoryReferenceFetchLatchesTheAddress : Obligations.MemoryReferenceFetchLatchesTheAddress := by
  unfold Obligations.MemoryReferenceFetchLatchesTheAddress
  intro f hf i p o s hc
  obtain ⟨op, he⟩ := encode_of_mem_executed f hf
  rw [he, eaOf_memRefWord, exec_fetch hc, fetchPart_of_mem_executed f hf]
  rfl

/-- Settles O13: outside JMP, Defer is the pointer and the move to Execute. -/
theorem memoryReferenceDeferFollowsThePointer : Obligations.MemoryReferenceDeferFollowsThePointer := by
  unfold Obligations.MemoryReferenceDeferFollowsThePointer
  intro f hf i p o s hc
  obtain ⟨m, hd, hm⟩ := derefPointer_pointerAt s
  rw [exec_defer hc, isJmp_of_mem_executed f hf, hd]
  exact ⟨_, rfl, hm, rfl⟩

/-- Settles O14: JMP's Fetch part without the indirect bit. -/
theorem directJmpCompletesInFetch : Obligations.DirectJmpCompletesInFetch := by
  unfold Obligations.DirectJmpCompletesInFetch
  intro p o s hc
  have hj : fetchPart (.jmp false p o) s =
      { s with ma := effectiveAddress p o s.pc, pc := effectiveAddress p o s.pc, cycle := .fetch } := rfl
  rw [encode, eaOf_memRefWord, exec_fetch hc, hj, ← hc]

/-- Settles O15: JMP's Fetch and Defer parts, and that it has no Execute part. -/
theorem indirectJmpJumpsToThePointer : Obligations.IndirectJmpJumpsToThePointer := by
  unfold Obligations.IndirectJmpJumpsToThePointer
  refine ⟨fun p o s hc => ?_, fun i p o s hc => ?_, fun i p o s hc => exec_execute hc _⟩
  · rw [encode, eaOf_memRefWord, exec_fetch hc]
    rfl
  · obtain ⟨m, hd, hm⟩ := derefPointer_pointerAt s
    rw [exec_defer hc, jmpDefer, hd]
    exact ⟨_, rfl, hm, rfl⟩

/-- Settles O30: the decoder gives back the encoded instruction, in Fetch from the cell at PC, else from IR. -/
theorem stepRunsTheDecodedInstruction : Obligations.StepRunsTheDecodedInstruction := by
  unfold Obligations.StepRunsTheDecodedInstruction
  intro i s hi hf
  have hd := decodeWord_encode hi
  refine ⟨fun hc hw => ?_, fun hc hw => ?_⟩
  · have he := exec_fetch (s := fetched s) hc i
    rw [step_fetched hf hc, hw, hd, ← he, fetched, hw]
  · have hb := beginStep_other hc
    have hdb : decodeWord (beginStep s).ir = i := by rw [hb, ← hd, ← hw]
    refine ⟨fun u hu => ?_, fun f hu => step_of_exec_fault hf (by rw [hdb, hb, hu])⟩
    rw [step_of_exec hf (u := u) (by rw [hdb, hb, hu]), countInstruction_eq]
    simp only [ne_eq, hc, not_false_eq_true, and_true]

end Sys2Proof.Proofs
end

section
/-! SUPPORT. A whole memory-reference instruction, from Fetch over Defer to the start of Execute and to the next
boundary, in the terms of the statements: the operand address and what the pointer leaves in memory
(spec/41_memory_reference.md R130, R131, R140). -/

namespace Sys2Proof.Machine

open Sys2Proof.Claims

/-! A store. -/

theorem State.readMem_of_mem_write {s t : State} {a v : Word} (h : t.mem = s.mem.write a.toNat v) (b : Word) :
    t.readMem b = if b = a then v else s.readMem b := by
  rw [State.readMem_eq, h, Memory.read_write_word]
  rfl

theorem State.readMem_store {s t : State} {a v : Word} (h : t.mem = s.mem.write a.toNat v) :
    t.readMem a = v ∧ ∀ b, b ≠ a → t.readMem b = s.readMem b :=
  ⟨(State.readMem_of_mem_write h a).trans (if_pos rfl),
    fun b hb => (State.readMem_of_mem_write h b).trans (if_neg hb)⟩

/-- Memory after the store of an instruction, if it makes one. -/
def Memory.store (m : Memory) (a : Word) (stored : Option Word) : Memory := stored.elim m (m.write a.toNat)

theorem Memory.read_store (m : Memory) (a b : Word) (stored : Option Word) :
    (m.store a stored).read b.toNat = if b = a then stored.getD (m.read b.toNat) else m.read b.toNat := by
  cases stored with
  | none => exact (ite_self _).symm
  | some v => exact Memory.read_write_word m a b v

/-! Execute. -/

/-- The sum as arithmetic modulo 4096 (R133). -/
theorem ofNat_add_mod (a b : Word) : BitVec.ofNat 12 ((a.toNat + b.toNat) % 4096) = a + b :=
  BitVec.eq_of_toNat_eq (by simp)

theorem exec_execute_some {s : State} (hc : s.cycle = .execute) {i : Instr} {f : State → State}
    (hp : executePart i = some f) : exec i s = .next ((f (loadOperand s)).setCycle .fetch) := by
  rw [exec_execute hc, hp]

/-- JMS in Execute: the return address at MA, and on at MA + 1 (R137). -/
theorem step_execute_jms {s : State} (hf : s.fault = none) (hc : s.cycle = .execute) (ho : opcodeOf s.ir = .jms) :
    ∃ t, step s = .next t ∧ t.pc = s.ma + 1 ∧ t.readMem s.ma = s.pc := by
  rw [step_execute_some hf hc (congrArg executePart (decodeWord_jms ho)), jmsEffect_loadOperand]
  exact ⟨_, rfl, rfl, (State.readMem_store (s := s) rfl).1⟩

/-! The operand address, by the indirect bit (R131). -/

section
variable {s : State} {w : Word}

theorem targetOf_indirect (hi : indirectBit w = true) : targetOf s w = pointerAt s (eaOf w (s.pc + 1)) := if_pos hi

theorem targetOf_direct (hi : indirectBit w = false) : targetOf s w = eaOf w (s.pc + 1) :=
  if_neg (Bool.eq_false_iff.1 hi)

theorem cellOnce_indirect (hi : indirectBit w = true) (b : Word) :
    cellOnce s w b = if b = eaOf w (s.pc + 1) then pointerAt s b else s.readMem b :=
  if_congr (and_iff_right hi) rfl rfl

theorem cellOnce_direct (hi : indirectBit w = false) (b : Word) : cellOnce s w b = s.readMem b :=
  if_neg fun h => Bool.eq_false_iff.1 hi h.1

end

/-! To Defer and to Execute. -/

/-- Fetch of the indirect memory reference at PC leaves this state, in Defer (R103). -/
def atDefer (s : State) : State :=
  { fetched s with ma := eaOf (s.readMem s.pc) (s.pc + 1), cycle := .defer }

/-- Execute of the memory reference at PC starts in this state, for what Fetch or Defer left in MB and in memory. -/
def atExecute (s : State) (mb : Word) (m : Memory) : State :=
  { s with
    pc := s.pc + 1
    ma := targetOf s (s.readMem s.pc)
    mb := mb
    ir := s.readMem s.pc
    cycle := .execute
    cyc := s.cyc + if indirectBit (s.readMem s.pc) then 2 else 1
    mem := m }

section
variable {s : State}

/-- Defer of the word at PC: the operand address into MA and MB, and memory as the statements say (R105, R106, D6). -/
theorem derefPointer_atDefer (hi : indirectBit (s.readMem s.pc) = true) :
    ∃ m : Memory, (∀ b : Word, m.read b.toNat = cellOnce s (s.readMem s.pc) b) ∧
      derefPointer (atDefer s) =
        { atDefer s with ma := targetOf s (s.readMem s.pc), mb := targetOf s (s.readMem s.pc), mem := m } := by
  obtain ⟨m, hd, hm⟩ := derefPointer_pointerAt (atDefer s)
  refine ⟨m, fun b => (hm b).trans (cellOnce_indirect hi b).symm, ?_⟩
  rw [targetOf_indirect hi, hd]
  rfl

theorem step_atDefer_of_memRef (hf : s.fault = none) (hx : hasExecutePart (opcodeOf (s.readMem s.pc)) = true)
    (hi : indirectBit (s.readMem s.pc) = true) :
    ∃ m : Memory, (∀ b : Word, m.read b.toNat = cellOnce s (s.readMem s.pc) b) ∧
      step (atDefer s) = .next (atExecute s (targetOf s (s.readMem s.pc)) m) := by
  obtain ⟨m, hm, hd⟩ := derefPointer_atDefer hi
  have hj : ¬ isJmp (decodeWord (atDefer s).ir) = true :=
    mt (isJmp_decodeWord_iff _).1 (ne_jmp_of_hasExecutePart hx)
  refine ⟨m, hm, ?_⟩
  rw [step_defer (s := atDefer s) hf rfl, if_neg hj, hd, atExecute, hi]
  rfl

/-- AND, TAD, ISZ, DCA, JMS from a boundary: one step to Execute when direct, two when indirect (R130). -/
theorem runInstruction_memRef (hf : s.fault = none) (hc : s.cycle = .fetch)
    (hx : hasExecutePart (opcodeOf (s.readMem s.pc)) = true) :
    ∃ fuel mb m, (∀ b : Word, Memory.read m b.toNat = cellOnce s (s.readMem s.pc) b) ∧
      runInstruction s = stepsToBoundary (fuel + 1) (atExecute s mb m) := by
  have hs := step_fetched hf hc
  rw [fetchPart_memRef hx] at hs
  cases hi : indirectBit (s.readMem s.pc) <;> rw [hi] at hs
  · refine ⟨1, s.readMem s.pc, s.mem, fun b => (cellOnce_direct hi b).symm, ?_⟩
    rw [runInstruction, stepsToBoundary_step hs (by simp) hf, atExecute, targetOf_direct hi, hi]
    rfl
  · obtain ⟨m, hm, hd⟩ := step_atDefer_of_memRef hf hx hi
    refine ⟨0, targetOf s (s.readMem s.pc), m, hm, ?_⟩
    rw [runInstruction, stepsToBoundary_step hs (by simp) hf]
    exact stepsToBoundary_step hd (by simp [atExecute]) hf 1

/-- A memory reference completes with what its Execute part makes of the operand. -/
theorem completesWith_of_executePart (hf : s.fault = none) (hc : s.cycle = .fetch) {f : State → State}
    (hp : executePart (decodeWord (s.readMem s.pc)) = some f) {pc ac mb : Word} {l : Link} {stored : Option Word}
    (he : ∀ (x : Word) (m : Memory),
      (atExecute s x m).readMem (atExecute s x m).ma =
          cellOnce s (s.readMem s.pc) (targetOf s (s.readMem s.pc)) →
        f (loadOperand (atExecute s x m)) =
          { atExecute s x m with
            pc := pc, ac := ac, l := l, mb := mb, mem := m.store (targetOf s (s.readMem s.pc)) stored }) :
    CompletesWith s (s.readMem s.pc) pc ac l mb stored := by
  have hx : hasExecutePart (opcodeOf (s.readMem s.pc)) = true := by rw [← executePart_isSome, hp]; rfl
  obtain ⟨fuel, x, m, hm, hr⟩ := runInstruction_memRef hf hc hx
  have hs := step_execute_some (s := atExecute s x m) hf rfl hp
  rw [he x m (hm _)] at hs
  refine ⟨_, hr.trans (stepsToBoundary_stop hs rfl fuel), fun b => ?_, ?_⟩
  · rw [← hm b]
    exact Memory.read_store m _ b stored
  · have hcyc : (atExecute s x m).cyc + 1 = s.cyc + if (s.readMem s.pc).getLsbD 8 then 3 else 2 := by
      unfold atExecute indirectBit
      split <;> rfl
    rw [hcyc, ← hc]
    rfl

/-! JMP. -/

/-- What JMP leaves at the next boundary, for what its cycles left in MB and in memory (R138). -/
def afterJmp (s : State) (mb : Word) (m : Memory) : State :=
  { s with
    pc := targetOf s (s.readMem s.pc)
    ma := targetOf s (s.readMem s.pc)
    mb := mb
    ir := s.readMem s.pc
    cyc := s.cyc + if indirectBit (s.readMem s.pc) then 2 else 1
    ins := s.ins + if indirectBit (s.readMem s.pc) then 1 else 0
    mem := m }

theorem runInstruction_jmp_direct (hf : s.fault = none) (hc : s.cycle = .fetch)
    (hj : opcodeOf (s.readMem s.pc) = .jmp) (hi : indirectBit (s.readMem s.pc) = false) :
    runInstruction s = .next (afterJmp s (s.readMem s.pc) s.mem) := by
  have hs := step_fetched hf hc
  rw [fetchPart_jmp_direct hj hi] at hs
  rw [runInstruction, stepsToBoundary_stop hs rfl, afterJmp, targetOf_direct hi, hi, ← hc]
  rfl

theorem runInstruction_jmp_indirect (hf : s.fault = none) (hc : s.cycle = .fetch)
    (hj : opcodeOf (s.readMem s.pc) = .jmp) (hi : indirectBit (s.readMem s.pc) = true) :
    ∃ m : Memory, (∀ b : Word, m.read b.toNat = cellOnce s (s.readMem s.pc) b) ∧
      runInstruction s = .next (afterJmp s (targetOf s (s.readMem s.pc)) m) := by
  obtain ⟨m, hm, hd⟩ := derefPointer_atDefer hi
  have hs := step_fetched hf hc
  rw [fetchPart_jmp_indirect hj hi] at hs
  have hs' := step_defer (s := atDefer s) hf rfl
  have hjmp : isJmp (decodeWord (atDefer s).ir) = true := (isJmp_decodeWord_iff _).2 hj
  rw [if_pos hjmp, hd] at hs'
  refine ⟨m, hm, ?_⟩
  rw [runInstruction, stepsToBoundary_step hs (by simp) hf, afterJmp, hi, hc]
  exact stepsToBoundary_stop hs' rfl 1

end

end Sys2Proof.Machine
end

section
/-! PROOFS. The statements about the memory-reference instructions (spec/41_memory_reference.md). -/

namespace Sys2Proof.Proofs

open Sys2Proof.Machine Sys2Proof.Claims

/-- Settles O45: each opcode's Execute part, on the state in which Execute starts. -/
theorem memoryReferenceInstructionsComplete : Obligations.MemoryReferenceInstructionsComplete := by
  unfold Obligations.MemoryReferenceInstructionsComplete
  intro s hf hc w a v
  refine ⟨fun ho => ?_, fun ho => ?_, fun ho => ?_, fun ho => ?_, fun ho => ?_⟩
  · refine completesWith_of_executePart hf hc (congrArg executePart (decodeWord_and ho)) fun x m hv => ?_
    rw [andEffect_loadOperand, hv]
    rfl
  · refine completesWith_of_executePart hf hc (congrArg executePart (decodeWord_tad ho)) fun x m hv => ?_
    rw [tadEffect_loadOperand, hv]
    rfl
  · refine completesWith_of_executePart hf hc (congrArg executePart (decodeWord_isz ho)) fun x m hv => ?_
    have hpc : s.pc + 2 = s.pc + 1 + 1 := by bv_omega
    rw [iszEffect_loadOperand, hv, hpc]
    rfl
  · refine completesWith_of_executePart hf hc (congrArg executePart (decodeWord_dca ho)) fun x m hv => ?_
    rw [dcaEffect_loadOperand, hv]
    rfl
  · refine completesWith_of_executePart hf hc (congrArg executePart (decodeWord_jms ho)) fun x m hv => ?_
    rw [jmsEffect_loadOperand, hv]
    rfl

/-- Settles O46, by the indirect bit: the direct jump ends in Fetch, the indirect one in Defer. -/
theorem jmpInstructionCompletes : Obligations.JmpInstructionCompletes := by
  unfold Obligations.JmpInstructionCompletes
  intro s hf hc w a hj
  cases hi : w.getLsbD 8
  · refine ⟨_, runInstruction_jmp_direct hf hc hj hi, fun b => (cellOnce_direct (s := s) hi b).symm, ?_⟩
    rw [afterJmp, show indirectBit (s.readMem s.pc) = false from hi]
    rfl
  · obtain ⟨m, hm, hr⟩ := runInstruction_jmp_indirect hf hc hj hi
    refine ⟨_, hr, hm, ?_⟩
    rw [afterJmp, show indirectBit (s.readMem s.pc) = true from hi]
    rfl

/-- Settles O48: JMS stores PC at MA, and an indirect JMP through an ordinary cell goes to the word it holds. -/
theorem indirectJmpReturnsFromJms : Obligations.IndirectJmpReturnsFromJms := by
  unfold Obligations.IndirectJmpReturnsFromJms
  intro s hf hc ho ha
  obtain ⟨t, hs, hpc, hsaved⟩ := step_execute_jms hf hc ho
  refine ⟨t, hs, hpc, hsaved, fun u huf huc hcell hj hi hea => ?_⟩
  have htarget : targetOf u (u.readMem u.pc) = s.pc := by
    rw [targetOf_indirect hi, hea, pointerAt_of_not_inAutoRange ha, hcell, hsaved]
  obtain ⟨m, -, hr⟩ := runInstruction_jmp_indirect huf huc hj hi
  exact ⟨_, hr, htarget, huc⟩

/-- Settles O7: AND's Execute part. -/
theorem andMasksTheAccumulator : Obligations.AndMasksTheAccumulator := by
  unfold Obligations.AndMasksTheAccumulator
  intro i p o s hc
  rw [exec_execute_some hc rfl, andEffect_loadOperand]
  rfl

/-- Settles O8: TAD's Execute part, whose sum is already taken modulo 4096. -/
theorem tadAddsAndTogglesTheLinkOnCarry : Obligations.TadAddsAndTogglesTheLinkOnCarry := by
  unfold Obligations.TadAddsAndTogglesTheLinkOnCarry
  intro i p o s hc
  rw [exec_execute_some hc rfl, tadEffect_loadOperand, ofNat_add_mod]
  rfl

/-- Settles O9: ISZ's Execute part, and its store at MA. -/
theorem iszIncrementsTheCellAndSkipsAtZero : Obligations.IszIncrementsTheCellAndSkipsAtZero := by
  unfold Obligations.IszIncrementsTheCellAndSkipsAtZero
  intro i p o s hc
  rw [exec_execute_some hc rfl, iszEffect_loadOperand, ofNat_succ_mod]
  exact ⟨_, rfl, and_assoc.1 ⟨State.readMem_store rfl, rfl⟩⟩

/-- Settles O10: DCA's Execute part, and its store at MA. -/
theorem dcaStoresAndClearsTheAccumulator : Obligations.DcaStoresAndClearsTheAccumulator := by
  unfold Obligations.DcaStoresAndClearsTheAccumulator
  intro i p o s hc
  rw [exec_execute_some hc rfl, dcaEffect_loadOperand]
  exact ⟨_, rfl, and_assoc.1 ⟨State.readMem_store rfl, rfl⟩⟩

/-- Settles O11: JMS's Execute part, and its store at MA. -/
theorem jmsSavesTheReturnAddressAndJumps : Obligations.JmsSavesTheReturnAddressAndJumps := by
  unfold Obligations.JmsSavesTheReturnAddressAndJumps
  intro i p o s hc
  rw [exec_execute_some hc rfl, jmsEffect_loadOperand]
  exact ⟨_, rfl, and_assoc.1 ⟨State.readMem_store rfl, rfl⟩⟩

end Sys2Proof.Proofs
end

section
/-! SUPPORT. The Fetch of an unimplemented instruction, in the terms of its own word (spec/42_iot.md R161;
spec/44_operate_group2.md R217). -/

namespace Sys2Proof.Machine

open Sys2Proof.Claims

theorem opcodeOf_encode_iot (c : BitVec 9) : opcodeOf (encode (.iot c)) = .iot :=
  (opcodeOf_eq_iff _ .iot).2 BitVec.extractLsb'_append_eq_left

/-- Only MA and FAULT are written (R113, D7). -/
theorem exec_fetch_unimplemented {i : Instr} {s : State} (hw : i.wellFormed = true)
    (hu : opcodeOf (encode i) = .iot ∨ groupOf i = some 3) (hc : s.cycle = .fetch) :
    exec i s = .next { s with ma := eaOf (encode i) s.pc, fault := some .notImplemented } := by
  have hd : decodeWord (encode i) = i := decodeWord_encode hw
  have hf := fetchPart_unimplemented (w := encode i) (by rwa [hd]) s
  rw [exec_fetch hc, ← hf, hd]

end Sys2Proof.Machine
end

section
/-! PROOFS. The statement about the IOT class and the third operate group (spec/42_iot.md). -/

namespace Sys2Proof.Proofs

open Sys2Proof.Machine Sys2Proof.Claims

/-- Settles O17: both classes have the Fetch part of an unimplemented word, IOT by its opcode and the third group by its
constructor. -/
theorem iotAndThirdGroupRaiseNotImplemented : Obligations.IotAndThirdGroupRaiseNotImplemented := by
  unfold Obligations.IotAndThirdGroupRaiseNotImplemented
  refine ⟨fun c s hc => ?_, fun b s hc => ?_⟩
  · exact exec_fetch_unimplemented rfl (.inl (opcodeOf_encode_iot c)) hc
  · exact exec_fetch_unimplemented rfl (.inr rfl) hc

end Sys2Proof.Proofs
end

section
/-! SUPPORT. The rotates and the Group 1 sequence on the 13-bit value of link and accumulator, and the Fetch of an
operate instruction in the terms of its own word (spec/43_operate_group1.md R171 to R183). -/

namespace Sys2Proof.Machine

open Sys2Proof.Claims

/-! The 13-bit rotates: by no place, by one place twice, and by one place as arithmetic (R179). -/

theorem rotateRight_zero (x : BitVec 13) : x.rotateRight 0 = x := by
  simp [BitVec.rotateRight_def]

theorem rotateLeft_zero (x : BitVec 13) : x.rotateLeft 0 = x := by
  simp [BitVec.rotateLeft_def, BitVec.ushiftRight_eq_zero]

theorem rotateRight_one_one (x : BitVec 13) : (x.rotateRight 1).rotateRight 1 = x.rotateRight 2 := by
  apply BitVec.eq_of_getLsbD_eq
  intro i hi
  simp only [BitVec.getLsbD_rotateRight]
  interval_cases i <;> simp

theorem rotateLeft_one_one (x : BitVec 13) : (x.rotateLeft 1).rotateLeft 1 = x.rotateLeft 2 := by
  apply BitVec.eq_of_getLsbD_eq
  intro i hi
  simp only [BitVec.getLsbD_rotateLeft]
  interval_cases i <;> simp

theorem toNat_rotr13 (x : BitVec 13) : (rotr13 x).toNat = x.toNat % 2 * 4096 + x.toNat / 2 := by
  have hhigh : x.toNat / 2 < 2 ^ 12 := by omega
  have hlow : x.toNat <<< 12 % 2 ^ 13 = (x.toNat % 2) <<< 12 := by simp only [Nat.shiftLeft_eq]; omega
  calc (rotr13 x).toNat
      = (x.toNat % 2) <<< 12 ||| x.toNat / 2 := by
        rw [rotr13_eq, BitVec.toNat_rotateRight, hlow, Nat.shiftRight_eq_div_pow, Nat.lor_comm]
    _ = x.toNat % 2 * 4096 + x.toNat / 2 := by
        rw [← Nat.shiftLeft_add_eq_or_of_lt hhigh, Nat.shiftLeft_eq]

theorem toNat_rotl13 (x : BitVec 13) : (rotl13 x).toNat = x.toNat % 4096 * 2 + x.toNat / 4096 := by
  have hlow : x.toNat / 4096 < 2 ^ 1 := by omega
  have hhigh : x.toNat <<< 1 % 2 ^ 13 = (x.toNat % 4096) <<< 1 := by simp only [Nat.shiftLeft_eq]; omega
  calc (rotl13 x).toNat
      = (x.toNat % 4096) <<< 1 ||| x.toNat / 4096 := by
        rw [rotl13_eq, BitVec.toNat_rotateLeft, hhigh, Nat.shiftRight_eq_div_pow]
    _ = x.toNat % 4096 * 2 + x.toNat / 4096 := by
        rw [← Nat.shiftLeft_add_eq_or_of_lt hlow, Nat.shiftLeft_eq]

theorem toNat_rotr13_pack13 (l : Link) (ac : Word) :
    (rotr13 (pack13 l ac)).toNat = ac.toNat % 2 * 4096 + (l.toNat * 2048 + ac.toNat / 2) := by
  rw [toNat_rotr13, pack13_toNat]
  omega

theorem toNat_rotl13_pack13 (l : Link) (ac : Word) :
    (rotl13 (pack13 l ac)).toNat = ac.toNat / 2048 * 4096 + (ac.toNat * 2 % 4096 + l.toNat) := by
  rw [toNat_rotl13, pack13_toNat]
  omega

/-! The state with another 13-bit value of link and accumulator. -/

theorem setLinkAc_pack13 (s : State) : setLinkAc s (pack13 s.l s.ac) = s := by
  rw [setLinkAc, linkOf13_pack13, acOf13_pack13]
  rfl

theorem rotateRight_setLinkAc (s : State) (x : BitVec 13) :
    rotateRight (setLinkAc s x) = setLinkAc s (rotr13 x) :=
  congrArg (setLinkAc s ∘ rotr13) (pack13_of x)

theorem rotateLeft_setLinkAc (s : State) (x : BitVec 13) :
    rotateLeft (setLinkAc s x) = setLinkAc s (rotl13 x) :=
  congrArg (setLinkAc s ∘ rotl13) (pack13_of x)

/-- The link and the accumulator a 13-bit value stands for, as numbers. -/
theorem setLinkAc_of_toNat {x : BitVec 13} {link acc : Nat} (h : x.toNat = link * 4096 + acc) (hacc : acc < 4096)
    (s : State) : setLinkAc s x = { s with l := BitVec.ofNat 1 link, ac := BitVec.ofNat 12 acc } := by
  have hl : linkOf13 x = BitVec.ofNat 1 link := by
    apply BitVec.eq_of_toNat_eq
    simp only [linkOf13, BitVec.extractLsb'_toNat, BitVec.toNat_ofNat, Nat.shiftRight_eq_div_pow]
    omega
  have ha : acOf13 x = BitVec.ofNat 12 acc := by
    apply BitVec.eq_of_toNat_eq
    simp only [acOf13, BitVec.extractLsb'_toNat, BitVec.toNat_ofNat, Nat.shiftRight_zero]
    omega
  rw [setLinkAc, hl, ha]
  rfl

/-! One and two places, as arithmetic on link and accumulator (R177 to R181). -/

theorem rotateRight_arith (s : State) :
    rotateRight s =
      { s with
        l := BitVec.ofNat 1 (s.ac.toNat % 2)
        ac := BitVec.ofNat 12 (s.l.toNat * 2048 + s.ac.toNat / 2) } :=
  setLinkAc_of_toNat (toNat_rotr13_pack13 s.l s.ac) (by omega) s

theorem rotateLeft_arith (s : State) :
    rotateLeft s =
      { s with
        l := BitVec.ofNat 1 (s.ac.toNat / 2048)
        ac := BitVec.ofNat 12 (s.ac.toNat * 2 % 4096 + s.l.toNat) } :=
  setLinkAc_of_toNat (toNat_rotl13_pack13 s.l s.ac) (by omega) s

theorem rotateRight_rotateRight_arith (s : State) :
    rotateRight (rotateRight s) =
      { s with
        l := BitVec.ofNat 1 (s.ac.toNat / 2 % 2)
        ac := BitVec.ofNat 12 (s.ac.toNat % 2 * 2048 + s.l.toNat * 1024 + s.ac.toNat / 4) } := by
  refine (rotateRight_setLinkAc s _).trans (setLinkAc_of_toNat ?_ (by omega) s)
  rw [toNat_rotr13, toNat_rotr13_pack13]
  have hquarter : s.ac.toNat / 4 = s.ac.toNat / 2 / 2 := by omega
  omega

theorem rotateLeft_rotateLeft_arith (s : State) :
    rotateLeft (rotateLeft s) =
      { s with
        l := BitVec.ofNat 1 (s.ac.toNat / 1024 % 2)
        ac := BitVec.ofNat 12 ((s.ac.toNat * 4 + s.l.toNat * 2) % 4096 + s.ac.toNat / 2048) } := by
  refine (rotateLeft_setLinkAc s _).trans (setLinkAc_of_toNat ?_ (by omega) s)
  rw [toNat_rotl13, toNat_rotl13_pack13]
  omega

/-! The optional micro-operations of the sequence (R171): what they make of AC and L, as numbers. -/

theorem applyIf_keeps {α : Type} (field : State → α) {f : State → State} (h : ∀ s, field (f s) = field s)
    (b : Bool) (s : State) : field (applyIf b f s) = field s := by
  cases b
  · rfl
  · exact h s

theorem toNat_toggleLink (l : Link) : (toggleLink l).toNat = 1 - l.toNat := by revert l; decide

theorem toggleLink_zero : toggleLink 0 = 1 := by decide

theorem applyIf_clearAc_toNat (b : Bool) (s : State) :
    (applyIf b clearAc s).ac.toNat = if b then 0 else s.ac.toNat := by cases b <;> rfl

theorem applyIf_clearLink_toNat (b : Bool) (s : State) :
    (applyIf b clearLink s).l.toNat = if b then 0 else s.l.toNat := by cases b <;> rfl

theorem applyIf_complementAc_toNat (b : Bool) (s : State) :
    (applyIf b complementAc s).ac.toNat = if b then 4095 - s.ac.toNat else s.ac.toNat := by
  cases b
  · rfl
  · exact Nat.mod_eq_of_lt (by omega)

theorem applyIf_complementLink_toNat (b : Bool) (s : State) :
    (applyIf b complementLink s).l.toNat = if b then 1 - s.l.toNat else s.l.toNat := by
  cases b
  · rfl
  · exact toNat_toggleLink s.l

theorem applyIf_incrementAc_toNat (b : Bool) (s : State) :
    (applyIf b incrementAc s).ac.toNat = if b then (s.ac.toNat + 1) % 4096 else s.ac.toNat := by
  cases b <;> rfl

/-- One place, and with the 0o002 bit a second one (R171, D4), for a direction `f` that turns the 13-bit
value by `r`. -/
theorem applyIf_twice_setLinkAc {f : State → State} {r : BitVec 13 → Nat → BitVec 13} {s : State} {x : BitVec 13}
    (h0 : r x 0 = x) (h1 : ∀ y, f (setLinkAc s y) = setLinkAc s (r y 1)) (h2 : r (r x 1) 1 = r x 2) (b two : Bool) :
    applyIf (b && two) f (applyIf b f (setLinkAc s x)) =
      setLinkAc s (r x ((if b then 1 else 0) + if b && two then 1 else 0)) := by
  match b, two with
  | false, _ => exact congrArg (setLinkAc s) h0.symm
  | true, false => exact h1 x
  | true, true =>
    calc f (f (setLinkAc s x))
        = setLinkAc s (r (r x 1) 1) := by rw [h1, h1]
      _ = setLinkAc s (r x 2) := by rw [h2]

/-- Step 4: right matches, then left matches (R171, R183, D5). -/
theorem group1Rotates_eq (g : Group1) (s : State) :
    group1Rotates g s =
      setLinkAc s
        (((pack13 s.l s.ac).rotateRight ((if g.rar then 1 else 0) + if g.rar && g.two then 1 else 0)).rotateLeft
          ((if g.ral then 1 else 0) + if g.ral && g.two then 1 else 0)) := by
  have hright (y : BitVec 13) : rotateRight (setLinkAc s y) = setLinkAc s (y.rotateRight 1) := by
    rw [rotateRight_setLinkAc, rotr13_eq]
  have hleft (y : BitVec 13) : rotateLeft (setLinkAc s y) = setLinkAc s (y.rotateLeft 1) := by
    rw [rotateLeft_setLinkAc, rotl13_eq]
  rw [← applyIf_twice_setLinkAc (rotateLeft_zero _) hleft (rotateLeft_one_one _),
    ← applyIf_twice_setLinkAc (rotateRight_zero _) hright (rotateRight_one_one _), setLinkAc_pack13]
  rfl

/-- The sequence before its rotates: clears, complements, increment (R171, steps 1 to 3). -/
def beforeRotates (g : Group1) (s : State) : State :=
  applyIf g.iac incrementAc <| applyIf g.cml complementLink <| applyIf g.cma complementAc <|
    applyIf g.cll clearLink <| applyIf g.cla clearAc s

theorem group1Sequence_eq_group1Rotates (g : Group1) (s : State) :
    group1Sequence g s = group1Rotates g (beforeRotates g s) := rfl

theorem beforeRotates_ac_toNat (g : Group1) (s : State) :
    (beforeRotates g s).ac.toNat =
      let a0 := if g.cla then 0 else s.ac.toNat
      let a1 := if g.cma then 4095 - a0 else a0
      if g.iac then (a1 + 1) % 4096 else a1 := by
  have hcml := applyIf_keeps State.ac (f := complementLink) (fun _ => rfl) g.cml
  have hcll := applyIf_keeps State.ac (f := clearLink) (fun _ => rfl) g.cll
  rw [beforeRotates, applyIf_incrementAc_toNat, hcml, applyIf_complementAc_toNat, hcll, applyIf_clearAc_toNat]

theorem beforeRotates_l_toNat (g : Group1) (s : State) :
    (beforeRotates g s).l.toNat =
      let l0 := if g.cll then 0 else s.l.toNat
      if g.cml then 1 - l0 else l0 := by
  have hiac := applyIf_keeps State.l (f := incrementAc) (fun _ => rfl) g.iac
  have hcma := applyIf_keeps State.l (f := complementAc) (fun _ => rfl) g.cma
  have hcla := applyIf_keeps State.l (f := clearAc) (fun _ => rfl) g.cla
  rw [beforeRotates, hiac, applyIf_complementLink_toNat, hcma, applyIf_clearLink_toNat, hcla]

/-- A new 13-bit value hides what was done to link and accumulator before. -/
theorem setLinkAc_of_changesAcL {f : State → State} (hf : ChangesAcL f) (s : State) (x : BitVec 13) :
    setLinkAc (f s) x = setLinkAc s x := by
  obtain ⟨a, l, h⟩ := hf s
  rw [h]
  rfl

theorem beforeRotates_changesAcL (g : Group1) : ChangesAcL (beforeRotates g) :=
  group1Sequence_changesAcL { g with rar := false, ral := false }

/-! An operate instruction in Fetch. -/

theorem control_opr1 (g : Group1) : g.control = (encode (.opr1 g)).setWidth 8 :=
  BitVec.setWidth_append_eq_right.symm

/-- The micro-operations on the state with MA latched are the next state. -/
theorem exec_fetch_operate {i : Instr} (f : State → State) {s t : State}
    (hi : fetchPart i = operateFetch ((encode i).setWidth 8) f) (hc : s.cycle = .fetch) (ht : t.cycle = .fetch)
    (hf : f (s.setMa (eaOf (encode i) s.pc)) = t) : exec i s = .next t := by
  rw [exec_fetch hc, hi, operateFetch, latchControl_eaOf, hf, ← ht]
  rfl

/-- A Group 1 combination, by what its sequence makes of the state with MA latched. -/
theorem exec_fetch_opr1 {g : Group1} {s t : State} (hc : s.cycle = .fetch) (ht : t.cycle = .fetch)
    (hf : group1Sequence g (s.setMa (eaOf (encode (.opr1 g)) s.pc)) = t) : exec (.opr1 g) s = .next t :=
  exec_fetch_operate _ (congrArg (operateFetch · _) (control_opr1 g)) hc ht hf

/-- The two's complement: the increment of the complement (R184). -/
theorem increment_complement (v : Word) : increment (complement v) = BitVec.ofNat 12 ((4096 - v.toNat) % 4096) := by
  have hsum : (increment (complement v)).toNat = ((4095 - v.toNat) % 4096 + 1) % 4096 := rfl
  apply BitVec.eq_of_toNat_eq
  rw [hsum, BitVec.toNat_ofNat]
  omega

end Sys2Proof.Machine
end

section
/-! PROOFS. The statements about Operate Group 1 (spec/43_operate_group1.md). -/

namespace Sys2Proof.Proofs

open Sys2Proof.Machine Sys2Proof.Claims

/-- Settles O25: the steps before the rotates give the numbers that the 13-bit value is packed from, and each rotate
test turns that value by one place. -/
theorem group1SequenceForEveryCombination : Obligations.Group1SequenceForEveryCombination := by
  unfold Obligations.Group1SequenceForEveryCombination
  intro g s hc a0 a1 a2 l0 l1 right left x
  let u := s.setMa (eaOf (encode (.opr1 g)) s.pc)
  have hpack : pack13 (beforeRotates g u).l (beforeRotates g u).ac = BitVec.ofNat 13 (l1 * 4096 + a2) := by
    have ha : (beforeRotates g u).ac.toNat = a2 := beforeRotates_ac_toNat g u
    have hl : (beforeRotates g u).l.toNat = l1 := beforeRotates_l_toNat g u
    rw [← ha, ← hl, ← pack13_toNat, BitVec.ofNat_toNat, BitVec.setWidth_eq]
  refine exec_fetch_opr1 hc hc ?_
  calc group1Sequence g u
      = setLinkAc (beforeRotates g u) x := by
        rw [group1Sequence_eq_group1Rotates, group1Rotates_eq, hpack]
    _ = setLinkAc u x := setLinkAc_of_changesAcL (beforeRotates_changesAcL g) u x
    _ = { u with l := BitVec.ofNat 1 (x.toNat / 4096), ac := BitVec.ofNat 12 (x.toNat % 4096) } :=
        setLinkAc_of_toNat (Nat.div_add_mod' _ _).symm (Nat.mod_lt _ (by decide)) u

/-- Settles O22: the micro-operations in the order of the sequence. -/
theorem group1ClearsComplementsAndIncrements : Obligations.Group1ClearsComplementsAndIncrements := by
  unfold Obligations.Group1ClearsComplementsAndIncrements
  intro s hc
  refine ⟨⟨?nop, ?cla, ?cll, ?cma, ?cml, ?iac⟩, ?sta, ?claIac, ?stl, ?cia, ?iacRal⟩
  case nop => exact exec_fetch_operate id rfl hc hc rfl
  case cla => exact exec_fetch_operate clearAc rfl hc hc rfl
  case cll => exact exec_fetch_operate clearLink rfl hc hc rfl
  case cma => exact exec_fetch_operate complementAc rfl hc hc rfl
  case cml => exact exec_fetch_operate complementLink rfl hc hc rfl
  case iac =>
    rw [ofNat_succ_mod, ← increment_eq]
    exact exec_fetch_operate incrementAc rfl hc hc rfl
  case sta => exact exec_fetch_operate (complementAc ∘ clearAc) rfl hc hc rfl
  case claIac => exact exec_fetch_opr1 hc hc rfl
  case stl =>
    have hf := congrArg (s.setMa (eaOf (encode .stl) s.pc)).setL toggleLink_zero
    exact exec_fetch_operate (complementLink ∘ clearLink) rfl hc hc hf
  case cia =>
    rw [← increment_complement]
    exact exec_fetch_operate (incrementAc ∘ complementAc) rfl hc hc rfl
  case iacRal => exact exec_fetch_opr1 hc hc (rotateLeft_arith (incrementAc _))

/-- Settles O23: the rotates as arithmetic; GLK rotates the link into a cleared accumulator. -/
theorem group1RotatesLinkAndAccumulator : Obligations.Group1RotatesLinkAndAccumulator := by
  unfold Obligations.Group1RotatesLinkAndAccumulator
  intro s hc
  refine ⟨?rar, ?ral, ?rtr, ?rtl, ?glk⟩
  case rar => exact exec_fetch_operate rotateRight rfl hc hc (rotateRight_arith _)
  case ral => exact exec_fetch_operate rotateLeft rfl hc hc (rotateLeft_arith _)
  case rtr => exact exec_fetch_operate (rotateRight ∘ rotateRight) rfl hc hc (rotateRight_rotateRight_arith _)
  case rtl => exact exec_fetch_operate (rotateLeft ∘ rotateLeft) rfl hc hc (rotateLeft_rotateLeft_arith _)
  case glk =>
    refine exec_fetch_operate (rotateLeft ∘ clearAc) rfl hc hc ((rotateLeft_arith _).trans ?_)
    simp [clearAc, State.setAc]

/-- Settles O24: both words have no micro-operation. -/
theorem wordsWithoutAnEffectOnlyLatchTheAddress : Obligations.WordsWithoutAnEffectOnlyLatchTheAddress := by
  unfold Obligations.WordsWithoutAnEffectOnlyLatchTheAddress
  exact fun s hc => ⟨exec_fetch_operate id rfl hc hc rfl, exec_fetch_operate id rfl hc hc rfl⟩

end Sys2Proof.Proofs
end

section
/-! SUPPORT. The three skip tests as conditions on AC and L, the skip of a Group 2 word, and the Group 2 sequence as one
next state (spec/44_operate_group2.md R201 to R211). -/

namespace Sys2Proof.Machine

open Sys2Proof.Claims

theorem testMinus_iff (ac : Word) : testMinus ac = true ↔ 2048 ≤ ac.toNat := by
  have hbit : testMinus ac = decide (2048 ≤ ac.toNat) := BitVec.msb_eq_decide ac
  rw [hbit, decide_eq_true_iff]

theorem not_testMinus_iff (ac : Word) : (!testMinus ac) = true ↔ ac.toNat < 2048 := by
  rw [Bool.not_eq_true', ← Bool.not_eq_true, testMinus_iff, not_le]

theorem testZero_iff (ac : Word) : testZero ac = true ↔ ac = 0 := beq_iff_eq

theorem not_testZero_iff (ac : Word) : (!testZero ac) = true ↔ ac ≠ 0 := bne_iff_ne

theorem testLink_iff (l : Link) : testLink l = true ↔ l ≠ 0 := bne_iff_ne

theorem not_testLink_iff (l : Link) : (!testLink l) = true ↔ l = 0 := by
  rw [Bool.not_eq_true', ← Bool.not_eq_true, testLink_iff, not_not]

theorem skipNext_eq (s : State) : skipNext s = { s with pc := s.pc + 1 } := congrArg s.setPc (increment_eq s.pc)

theorem applyIf_skipNext {b : Bool} {p : Prop} [Decidable p] (h : b = true ↔ p) (s : State) :
    applyIf b skipNext s = { s with pc := if p then s.pc + 1 else s.pc } := by
  cases b
  · rw [if_neg (mt h.2 Bool.false_ne_true), applyIf_false]
  · rw [if_pos (h.1 rfl), applyIf_true, skipNext_eq]

/-- The conditions of a Group 2 word, joined by OR in both senses; the sense bit alone skips (R208, R209, R211). -/
theorem group2Skip_iff (g : Group2) (ac : Word) (l : Link) :
    group2Skip g ac l = true ↔
      if g.sense = true then
        (g.minus = false ∧ g.zero = false ∧ g.link = false) ∨
          (g.minus = true ∧ ac.toNat < 2048) ∨ (g.zero = true ∧ ac ≠ 0) ∨ (g.link = true ∧ l = 0)
      else (g.minus = true ∧ 2048 ≤ ac.toNat) ∨ (g.zero = true ∧ ac = 0) ∨ (g.link = true ∧ l ≠ 0) := by
  unfold group2Skip
  split
  · have halone : (!g.minus && !g.zero && !g.link) = true ↔
        g.minus = false ∧ g.zero = false ∧ g.link = false := by
      simp only [Bool.and_eq_true, Bool.not_eq_true', and_assoc]
    simp only [halone, Bool.if_true_left, decide_eq_true_iff, Bool.or_eq_true, Bool.and_eq_true, not_testMinus_iff,
      not_testZero_iff, not_testLink_iff, or_assoc]
  · simp only [Bool.or_eq_true, Bool.and_eq_true, testMinus_iff, testZero_iff, testLink_iff, or_assoc]

theorem applyIf_clearAc_ac (b : Bool) (s : State) : (applyIf b clearAc s).ac = if b then 0 else s.ac := by
  cases b <;> rfl

theorem applyIf_orSwitches_ac (b : Bool) (s : State) :
    (applyIf b orSwitches s).ac = if b then s.ac ||| s.sr else s.ac := by
  cases b <;> rfl

/-- CLA, then OSR: AC after the sequence (R201, R212, R213). -/
theorem group2Sequence_ac (g : Group2) (s : State) :
    (group2Sequence g s).ac =
      let a := if g.cla then 0 else s.ac
      if g.osr then a ||| s.sr else a := by
  have hskip := applyIf_keeps State.ac (f := skipNext) fun _ => rfl
  have hskipSr := applyIf_keeps State.sr (f := skipNext) fun _ => rfl
  have hclaSr := applyIf_keeps State.sr (f := clearAc) fun _ => rfl
  have hhlt := applyIf_keeps State.ac (f := haltRun) fun _ => rfl
  rw [group2Sequence, hhlt, applyIf_orSwitches_ac, hclaSr, hskipSr, applyIf_clearAc_ac, hskip]

/-- The sequence as a whole: one skip on AC and L at entry, then CLA, OSR, HLT (R201, R210, R218). -/
theorem group2Sequence_eq (g : Group2) (s : State) :
    group2Sequence g s =
      { s with
        pc := if group2Skip g s.ac s.l then s.pc + 1 else s.pc
        ac :=
          let a := if g.cla then 0 else s.ac
          if g.osr then a ||| s.sr else a
        run := s.run && !g.hlt } := by
  obtain ⟨a, r, hframe⟩ := group2Sequence_frame g s
  have ha : (group2Sequence g s).ac = a := congrArg State.ac hframe
  have hr : (group2Sequence g s).run = r := congrArg State.run hframe
  rw [hframe, ← ha, ← hr, group2Sequence_ac, group2Sequence_run]

theorem control_opr2 (g : Group2) : g.control = (encode (.opr2 g)).setWidth 8 :=
  BitVec.setWidth_append_eq_right.symm

theorem exec_fetch_opr2 (g : Group2) {s : State} (hc : s.cycle = .fetch) :
    exec (.opr2 g) s =
      .next { s with
        ma := eaOf (encode (.opr2 g)) s.pc
        pc := if group2Skip g s.ac s.l then s.pc + 1 else s.pc
        ac :=
          let a := if g.cla then 0 else s.ac
          if g.osr then a ||| s.sr else a
        run := s.run && !g.hlt } :=
  exec_fetch_operate _ (congrArg (operateFetch · _) (control_opr2 g)) hc hc (group2Sequence_eq g _)

/-- An instruction that is one skip test. -/
theorem exec_fetch_skipTest {i : Instr} (test : State → Bool) {p : Prop} [Decidable p] {s : State}
    (hi : fetchPart i = operateFetch ((encode i).setWidth 8) fun s => applyIf (test s) skipNext s)
    (hc : s.cycle = .fetch) (hp : test (s.setMa (eaOf (encode i) s.pc)) = true ↔ p) :
    exec i s = .next { s with ma := eaOf (encode i) s.pc, pc := if p then s.pc + 1 else s.pc } :=
  exec_fetch_operate _ hi hc hc (applyIf_skipNext hp _)

end Sys2Proof.Machine
end

section
/-! PROOFS. The statements about Operate Group 2 (spec/44_operate_group2.md). -/

namespace Sys2Proof.Proofs

open Sys2Proof.Machine Sys2Proof.Claims

/-- Settles O28: the next state of a Group 2 combination, its skip test read as the conditions that are present. -/
theorem group2SequenceForEveryCombination : Obligations.Group2SequenceForEveryCombination := by
  unfold Obligations.Group2SequenceForEveryCombination
  intro g s hc skip a
  have hskip : group2Skip g s.ac s.l = true ↔ skip := group2Skip_iff g s.ac s.l
  exact ⟨_, exec_fetch_opr2 g hc, fun h => if_pos (hskip.2 h), fun h => if_neg (mt hskip.1 h), rfl⟩

/-- Settles O26: each word's test as a condition on AC or L at entry; SZA CLA, SKP CLA and SKP HLT skip, then clear or
halt. -/
theorem group2SkipTests : Obligations.Group2SkipTests := by
  unfold Obligations.Group2SkipTests
  intro s hc
  refine ⟨?sma, ?sza, ?snl, ?spa, ?sna, ?szl, ?skp, ?szaCla, ?skpCla, ?skpHlt⟩
  case sma => exact exec_fetch_skipTest (fun s => testMinus s.ac) rfl hc (testMinus_iff s.ac)
  case sza => exact exec_fetch_skipTest (fun s => testZero s.ac) rfl hc (testZero_iff s.ac)
  case snl => exact exec_fetch_skipTest (fun s => testLink s.l) rfl hc (testLink_iff s.l)
  case spa => exact exec_fetch_skipTest (fun s => !testMinus s.ac) rfl hc (not_testMinus_iff s.ac)
  case sna => exact exec_fetch_skipTest (fun s => !testZero s.ac) rfl hc (not_testZero_iff s.ac)
  case szl => exact exec_fetch_skipTest (fun s => !testLink s.l) rfl hc (not_testLink_iff s.l)
  case skp => exact exec_fetch_operate skipNext rfl hc hc (skipNext_eq _)
  case szaCla =>
    have hskip : group2Skip { zero := true, cla := true } s.ac s.l = true ↔ s.ac = 0 := by
      simp [group2Skip, testZero_iff]
    simp only [exec_fetch_opr2 _ hc, hskip, Bool.not_false, Bool.and_true]
    rfl
  case skpCla => exact exec_fetch_operate (clearAc ∘ skipNext) rfl hc hc (congrArg clearAc (skipNext_eq _))
  case skpHlt => exact exec_fetch_operate (haltRun ∘ skipNext) rfl hc hc (congrArg haltRun (skipNext_eq _))

/-- Settles O27: the micro-operations themselves; LAS reads the switches into a cleared accumulator. -/
theorem group2ClearsReadsSwitchesAndHalts : Obligations.Group2ClearsReadsSwitchesAndHalts := by
  unfold Obligations.Group2ClearsReadsSwitchesAndHalts
  intro s hc
  refine ⟨?cla, ?osr, ?hlt, ?las⟩
  case cla => exact exec_fetch_operate clearAc rfl hc hc rfl
  case osr => exact exec_fetch_operate orSwitches rfl hc hc rfl
  case hlt => exact exec_fetch_operate haltRun rfl hc hc rfl
  case las =>
    have hf := congrArg (s.setMa (eaOf (encode .las) s.pc)).setAc (BitVec.zero_or (x := s.sr))
    exact exec_fetch_operate (orSwitches ∘ clearAc) rfl hc hc hf

end Sys2Proof.Proofs
end

section
/-! SUPPORT. The loader's bytes: the two halves of a word, what a tagged and an untagged byte do in each phase, and what
the words of a block leave in the image (spec/45_binary_loader.md R233 to R239, R243). -/

namespace Sys2Proof.Machine

open Sys2Proof.Claims

/-! Bytes. -/

theorem highSix_eq (b : TapeByte) : highSix b = BitVec.ofNat 12 (b.toNat % 64 * 64) := by
  apply BitVec.eq_of_toNat_eq
  have hmask : (b &&& 0o77).toNat = b.toNat % 64 := Nat.and_two_pow_sub_one_eq_mod b.toNat 6
  simp only [highSix, BitVec.toNat_shiftLeft, BitVec.toNat_setWidth, hmask, BitVec.toNat_ofNat, Nat.shiftLeft_eq]
  omega

theorem untagged_iff (b : TapeByte) : b &&& Config.originTag = 0 ↔ b.toNat / 64 % 2 = 0 := by
  have hand : (b &&& Config.originTag).toNat = (b.toNat.testBit 6).toNat * 64 := Nat.and_two_pow b.toNat 6
  have hzero : (0 : TapeByte).toNat = 0 := rfl
  rw [← BitVec.toNat_inj, hand, hzero, Nat.toNat_testBit]
  omega

/-- The bytes that reach OriginLow and DataLow (R235, R237). -/
theorem toNat_of_untagged {b : TapeByte} (hl : b ≠ Config.leader) (ht : b &&& Config.originTag = 0) :
    b.toNat ≤ 0o77 ∨ 0o201 ≤ b.toNat ∧ b.toNat ≤ 0o277 := by
  have hne : b.toNat ≠ 0o200 := fun h => hl (BitVec.eq_of_toNat_eq h)
  have hbit := (untagged_iff b).1 ht
  omega

theorem orLow_getLsbD_seven (v : Word) {b : TapeByte} (h : 0o200 ≤ b.toNat) : (orLow v b).getLsbD 7 = true := by
  have hbit : b.getLsbD 7 = true := (BitVec.msb_eq_decide b).trans (decide_eq_true h)
  simp [orLow, hbit]

theorem toNat_highByte (d : Word) : (highByte d).toNat = d.toNat / 64 := Nat.mod_eq_of_lt (by omega)

theorem toNat_lowByte (d : Word) : (lowByte d).toNat = d.toNat % 64 := Nat.mod_eq_of_lt (by omega)

theorem toNat_tag_or_highByte (d : Word) : (0o100 ||| highByte d).toNat = 64 + d.toNat / 64 := by
  rw [BitVec.toNat_or, toNat_highByte]
  exact (Nat.two_pow_add_eq_or_of_lt (i := 6) (by omega) 1).symm

theorem untagged_of_lt {b : TapeByte} (h : b.toNat < 64) : b ≠ Config.leader ∧ b &&& Config.originTag = 0 := by
  refine ⟨?_, (untagged_iff b).2 (by omega)⟩
  rintro rfl
  exact absurd h (by decide)

theorem untagged_highByte (d : Word) : highByte d ≠ Config.leader ∧ highByte d &&& Config.originTag = 0 :=
  untagged_of_lt (by rw [toNat_highByte]; omega)

theorem untagged_lowByte (d : Word) : lowByte d ≠ Config.leader ∧ lowByte d &&& Config.originTag = 0 :=
  untagged_of_lt (by rw [toNat_lowByte]; omega)

/-- A word is its two halves put together, whatever bits 6 and 7 of the high byte are. -/
theorem orLow_highSix_lowByte {b : TapeByte} {d : Word} (h : b.toNat % 64 = d.toNat / 64) :
    orLow (highSix b) (lowByte d) = d := by
  apply BitVec.eq_of_toNat_eq
  have hor : 64 * (d.toNat / 64) + d.toNat % 64 = 64 * (d.toNat / 64) ||| d.toNat % 64 :=
    Nat.two_pow_add_eq_or_of_lt (i := 6) (Nat.mod_lt _ (by decide)) _
  have hhigh : (highSix b).toNat = 64 * (d.toNat / 64) := by
    rw [highSix_eq, h, BitVec.toNat_ofNat]
    omega
  have hlow : ((lowByte d).setWidth 12).toNat = d.toNat % 64 := by
    rw [BitVec.toNat_setWidth, toNat_lowByte]
    omega
  rw [orLow, BitVec.toNat_or, hhigh, hlow, ← hor, Nat.div_add_mod]

/-! One byte. -/

theorem LoaderState.consume_tagged (t : LoaderState) {b : TapeByte} (ht : b &&& Config.originTag ≠ 0) :
    t.consume b = { t with la := highSix b, ls := .originLow } := by
  have hl : b ≠ Config.leader := by
    rintro rfl
    exact ht rfl
  rw [consume, if_neg hl, if_pos ht]
  rfl

theorem LoaderState.consume_untagged (t : LoaderState) {b : TapeByte} (hl : b ≠ Config.leader)
    (ht : b &&& Config.originTag = 0) : t.consume b = t.accept b := by
  rw [consume, if_neg hl, if_neg (not_not.2 ht)]

section
variable {t : LoaderState} {b : TapeByte} (hl : b ≠ Config.leader)
include hl

/-- The high byte of an origin, tagged or not (R233, R234). -/
theorem LoaderState.consume_originHigh (hp : t.ls = .originHigh) :
    t.consume b = { t with la := highSix b, ls := .originLow } := by
  by_cases ht : b &&& Config.originTag = 0
  · rw [consume_untagged t hl ht, accept, hp]
  · exact consume_tagged t ht

variable (ht : b &&& Config.originTag = 0)
include ht

theorem LoaderState.consume_originLow (hp : t.ls = .originLow) :
    t.consume b = { t with la := orLow t.la b, lo := orLow t.la b, ls := .dataHigh } := by
  rw [consume_untagged t hl ht, accept, hp]

theorem LoaderState.consume_dataHigh (hp : t.ls = .dataHigh) :
    t.consume b = { t with lw := highSix b, ls := .dataLow } := by
  rw [consume_untagged t hl ht, accept, hp]

theorem LoaderState.consume_dataLow (hp : t.ls = .dataLow) : t.consume b = t.deposit (orLow t.lw b) := by
  rw [consume_untagged t hl ht, accept, hp]

end

/-! One word. -/

@[simp] theorem LoaderState.deposit_ls (t : LoaderState) (d : Word) : (t.deposit d).ls = .dataHigh := rfl
@[simp] theorem LoaderState.deposit_lw (t : LoaderState) (d : Word) : (t.deposit d).lw = d := rfl
@[simp] theorem LoaderState.deposit_lo (t : LoaderState) (d : Word) : (t.deposit d).lo = t.lo := rfl
@[simp] theorem LoaderState.deposit_la (t : LoaderState) (d : Word) : (t.deposit d).la = t.la + 1 :=
  increment_eq t.la

/-- The cell `i` places past the load address, modulo 4096 (D16). -/
def LoaderState.cell (t : LoaderState) (i : Nat) : Nat := (t.la.toNat + i) % 4096

theorem LoaderState.cell_zero (t : LoaderState) : t.cell 0 = t.la.toNat := Nat.mod_eq_of_lt t.la.isLt

theorem LoaderState.cell_one (t : LoaderState) : t.cell 1 = (t.la + 1).toNat := (BitVec.toNat_add t.la 1).symm

theorem LoaderState.cell_inj_of_lt (t : LoaderState) {i j : Nat} (hi : i < 4096) (hj : j < 4096)
    (h : t.cell i = t.cell j) : i = j := by
  unfold cell at h
  omega

/-- A word is stored at the load address and at the next one, and nowhere else (R237). -/
theorem LoaderState.deposit_read (t : LoaderState) (d : Word) (b : Nat) :
    (t.deposit d).img.read b = if b = t.cell 0 ∨ b = t.cell 1 then d else t.img.read b := by
  have himg : (t.deposit d).img = (t.img.write (t.cell 0) d).write (t.cell 1) d := by
    rw [cell_zero, cell_one, ← increment_eq]
    rfl
  rw [himg, Memory.read_write, Memory.read_write, ite_or]
  split <;> split <;> rfl

/-! A block. -/

/-- The words of a block stored one after the other. -/
def LoaderState.depositAll (t : LoaderState) (ds : List Word) : LoaderState := ds.foldl LoaderState.deposit t

theorem LoaderState.depositAll_concat (t : LoaderState) (ds : List Word) (d : Word) :
    t.depositAll (ds ++ [d]) = (t.depositAll ds).deposit d := List.foldl_concat ..

/-- The two bytes of a word store it. -/
theorem LoaderState.consumeAll_word {t : LoaderState} (hp : t.ls = .dataHigh) (d : Word) (bs : List TapeByte) :
    t.consumeAll (highByte d :: lowByte d :: bs) = (t.deposit d).consumeAll bs := by
  obtain ⟨hhl, hht⟩ := untagged_highByte d
  obtain ⟨hll, hlt⟩ := untagged_lowByte d
  have hword : orLow (highSix (highByte d)) (lowByte d) = d :=
    orLow_highSix_lowByte (by rw [toNat_highByte]; omega)
  rw [consumeAll, consumeAll, consume_dataHigh hhl hht hp, consume_dataLow hll hlt rfl, hword]
  rfl

theorem LoaderState.consumeAll_words {t : LoaderState} (hp : t.ls = .dataHigh) (ds : List Word) :
    t.consumeAll (ds.flatMap fun d => [highByte d, lowByte d]) = t.depositAll ds := by
  induction ds generalizing t with
  | nil => rfl
  | cons d ds ih => exact (consumeAll_word hp d _).trans (ih (deposit_ls t d))

/-- A block sets the origin, in whatever phase it begins, and stores its words from there. -/
theorem LoaderState.consumeAll_tapeBlock (t : LoaderState) (a : Word) (ds : List Word) :
    t.consumeAll (tapeBlock a ds) = { t with la := a, lo := a, ls := .dataHigh }.depositAll ds := by
  have htag : (0o100 ||| highByte a) &&& Config.originTag ≠ 0 := by
    rw [ne_eq, untagged_iff, toNat_tag_or_highByte]
    omega
  obtain ⟨hl, ht⟩ := untagged_lowByte a
  have horigin : orLow (highSix (0o100 ||| highByte a)) (lowByte a) = a :=
    orLow_highSix_lowByte (by rw [toNat_tag_or_highByte]; omega)
  rw [tapeBlock, consumeAll, consumeAll, consume_tagged t htag, consume_originLow hl ht rfl, horigin]
  exact consumeAll_words rfl ds

section
variable (t : LoaderState) (ds : List Word)

theorem LoaderState.depositAll_lo : (t.depositAll ds).lo = t.lo := by
  induction ds using List.reverseRecOn with
  | nil => rfl
  | append_singleton ds d ih => rw [depositAll_concat, deposit_lo, ih]

theorem LoaderState.depositAll_ls (hp : t.ls = .dataHigh) : (t.depositAll ds).ls = .dataHigh := by
  induction ds using List.reverseRecOn with
  | nil => exact hp
  | append_singleton ds d _ => rw [depositAll_concat, deposit_ls]

theorem LoaderState.depositAll_cell (i : Nat) : (t.depositAll ds).cell i = t.cell (ds.length + i) := by
  induction ds using List.reverseRecOn generalizing i with
  | nil => rw [List.length_nil, Nat.zero_add]; rfl
  | append_singleton ds d ih =>
    have hnext : ((t.depositAll ds).deposit d).cell i = (t.depositAll ds).cell (1 + i) := by
      rw [cell, deposit_la, ← cell_one, cell, cell]
      omega
    rw [depositAll_concat, hnext, ih, List.length_append, List.length_singleton, Nat.add_assoc]

variable {t ds}

/-- The image after one word more: two cells hold it, the others are as the words before it left them. -/
theorem LoaderState.depositAll_concat_read (d : Word) (b : Nat) :
    (t.depositAll (ds ++ [d])).img.read b =
      if b = t.cell ds.length ∨ b = t.cell (ds.length + 1) then d else (t.depositAll ds).img.read b := by
  rw [depositAll_concat, deposit_read, depositAll_cell, depositAll_cell, Nat.add_zero]

/-- A block writes the cells from the origin up to the one past its words. -/
theorem LoaderState.depositAll_read_other {b : Nat} (h : ∀ i, i ≤ ds.length → b ≠ t.cell i) :
    (t.depositAll ds).img.read b = t.img.read b := by
  induction ds using List.reverseRecOn with
  | nil => rfl
  | append_singleton ds d ih =>
    rw [List.length_append, List.length_singleton] at h
    have hout : ¬(b = t.cell ds.length ∨ b = t.cell (ds.length + 1)) :=
      not_or.2 ⟨h _ (Nat.le_succ _), h _ le_rfl⟩
    rw [depositAll_concat_read, if_neg hout]
    exact ih fun i hi => h i (Nat.le_succ_of_le hi)

/-- Each word of a block stays in its cell: only the duplicate of the one before it is overwritten (R243). -/
theorem LoaderState.depositAll_read_word (hn : ds.length < 4096) {i : Nat} (hi : i < ds.length) :
    (t.depositAll ds).img.read (t.cell i) = ds[i] := by
  induction ds using List.reverseRecOn generalizing i with
  | nil => exact absurd hi (Nat.not_lt_zero i)
  | append_singleton ds d ih =>
    simp only [List.length_append, List.length_singleton] at hn hi
    rw [depositAll_concat_read]
    rcases Nat.lt_succ_iff_lt_or_eq.1 hi with hlt | rfl
    · have hout : ¬(t.cell i = t.cell ds.length ∨ t.cell i = t.cell (ds.length + 1)) := by
        rintro (h | h)
        · exact absurd (t.cell_inj_of_lt (by omega) (by omega) h) (by omega)
        · exact absurd (t.cell_inj_of_lt (by omega) (by omega) h) (by omega)
      rw [if_neg hout, ih (by omega) hlt, List.getElem_append_left hlt]
    · rw [if_pos (Or.inl rfl), List.getElem_concat_length rfl]

/-- The last word of a block stands once more in the cell past it (R243). -/
theorem LoaderState.depositAll_read_past (hne : ds ≠ []) :
    (t.depositAll ds).img.read (t.cell ds.length) = ds.getLast hne := by
  obtain ⟨ds, d, rfl⟩ := List.eq_nil_or_concat' ds |>.resolve_left hne
  rw [depositAll_concat_read, List.length_append, List.length_singleton, if_pos (Or.inr rfl),
    List.getLast_append_singleton]

end

end Sys2Proof.Machine
end

section
/-! PROOFS. The statements about the paper-tape loader (spec/45_binary_loader.md). -/

namespace Sys2Proof.Proofs

open Sys2Proof.Machine Sys2Proof.Claims

/-- Settles O59: the block's bytes set the origin and store its words one after the other, each overwriting the
duplicate of the one before; below 4096 words the duplicate of the last does not come round to the first. -/
theorem tapeBlockLoadsItsWords : Obligations.TapeBlockLoadsItsWords := by
  unfold Obligations.TapeBlockLoadsItsWords
  intro t a ds hne hn u
  have hu : u = { t with la := a, lo := a, ls := .dataHigh }.depositAll ds := t.consumeAll_tapeBlock a ds
  rw [hu]
  exact ⟨fun _ hi => LoaderState.depositAll_read_word hn hi, LoaderState.depositAll_read_past hne,
    fun _ hb => LoaderState.depositAll_read_other hb, LoaderState.depositAll_lo _ ds,
    LoaderState.depositAll_ls _ ds rfl⟩

/-- Settles O56: the byte completes the word, which is stored in the two cells and nowhere else. -/
theorem lowByteStoresTheWordTwice : Obligations.LowByteStoresTheWordTwice := by
  unfold Obligations.LowByteStoresTheWordTwice
  intro t b hp hl ht
  rw [LoaderState.consume_dataLow hl ht hp]
  refine ⟨t.deposit_lw _, t.deposit_la _, t.deposit_ls _, t.deposit_lo _, fun a => ?_⟩
  simp only [LoaderState.deposit_read, LoaderState.cell_zero, LoaderState.cell_one, BitVec.toNat_inj, orLow]

/-- Settles O54: the decoder's first test. -/
theorem leaderBytesAreSkipped : Obligations.LeaderBytesAreSkipped := by
  unfold Obligations.LeaderBytesAreSkipped
  exact fun t => if_pos rfl

/-- Settles O55: the two phases that take a high byte; only in OriginHigh may it be tagged. -/
theorem highBytesSupplyBitsElevenToSix : Obligations.HighBytesSupplyBitsElevenToSix := by
  unfold Obligations.HighBytesSupplyBitsElevenToSix
  intro t b hl
  rw [← highSix_eq]
  exact ⟨LoaderState.consume_originHigh hl, fun hp ht => LoaderState.consume_dataHigh hl ht hp⟩

/-- Settles O57: a tagged byte is the high byte of an origin in every phase. -/
theorem taggedBytesRestartTheOrigin : Obligations.TaggedBytesRestartTheOrigin := by
  unfold Obligations.TaggedBytesRestartTheOrigin
  intro t b ht
  rw [← highSix_eq]
  exact t.consume_tagged ht

/-- Settles O60: the whole byte is ORed in; one above 0o77 is above the leader, so it has bit 7. -/
theorem originLowByteCompletesTheOrigin : Obligations.OriginLowByteCompletesTheOrigin := by
  unfold Obligations.OriginLowByteCompletesTheOrigin
  intro t b hp hl ht
  rw [BitVec.ofNat_toNat]
  have hc := LoaderState.consume_originLow hl ht hp
  refine ⟨hc, (toNat_of_untagged hl ht).imp_right fun ⟨hge, hle⟩ => ⟨hge, hle, ?_⟩⟩
  rw [hc]
  exact orLow_getLsbD_seven t.la (by omega)

end Sys2Proof.Proofs
end

section
/-! SUPPORT. The end of a tape that breaks off: a byte that completes neither a word nor an origin leaves the image and
the last origin as they are (spec/45_binary_loader.md R240 to R242). -/

namespace Sys2Proof.Machine

theorem LoaderState.consumeAll_concat (t : LoaderState) (bs : List TapeByte) (b : TapeByte) :
    t.consumeAll (bs ++ [b]) = (t.consumeAll bs).consume b := by
  induction bs generalizing t with
  | nil => rfl
  | cons c bs ih => exact ih (t.consume c)

theorem LoaderState.consume_leader (t : LoaderState) : t.consume Config.leader = t := if_pos rfl

/-- Only an untagged byte in OriginLow or DataLow completes anything (R235, R237). -/
theorem LoaderState.consume_incomplete {t : LoaderState} {b : TapeByte}
    (h : b &&& Config.originTag ≠ 0 ∨ t.ls = .originHigh ∨ t.ls = .dataHigh) :
    (t.consume b).img = t.img ∧ (t.consume b).lo = t.lo := by
  by_cases hl : b = Config.leader
  · rw [hl, consume_leader]
    exact ⟨rfl, rfl⟩
  by_cases ht : b &&& Config.originTag = 0
  · rcases h.resolve_left (not_not.2 ht) with hp | hp
    · rw [consume_originHigh hl hp]
      exact ⟨rfl, rfl⟩
    · rw [consume_dataHigh hl ht hp]
      exact ⟨rfl, rfl⟩
  · rw [consume_tagged t ht]
    exact ⟨rfl, rfl⟩

/-- load of a readable stream (R240). -/
theorem load_some (bs : List TapeByte) (m : Memory) :
    load (some bs) m =
      .ok (((LoaderState.start m).consumeAll bs).img, ((LoaderState.start m).consumeAll bs).lo) := rfl

/-- load on the machine changes memory alone, and to a canonical one (R245). -/
theorem loadTape_frame (stream : Option (List TapeByte)) {s : State} (h : s.mem.wf = true) :
    ∃ m : Memory, (loadTape stream s).1 = s.setMem m ∧ m.wf = true := by
  cases stream with
  | none => exact ⟨s.mem, rfl, h⟩
  | some bs => exact ⟨_, rfl, load_wf h (load_some bs s.mem)⟩

end Sys2Proof.Machine
end

section
/-! SUPPORT. The invariant holds in every reachable state: after construction, at a launch, and after every move of the
driver (spec/60_exceptions.md R262; spec/70_reset_and_hazards.md R296, R298). -/

namespace Sys2Proof.Machine

/-- At Fetch without FAULT only the form of memory is left to hold. -/
theorem inv_of_fetch {s : State} (hm : s.mem.wf = true) (hc : s.cycle = .fetch) (hf : s.fault = none) : s.Inv :=
  ⟨hm, cycleLegal_of_fetch hc, faultLegal_of_none hf⟩

theorem inv_of_isLaunch {s : State} (h : isLaunch s = true) : s.Inv := by
  simp only [isLaunch, Bool.and_eq_true, Option.isNone_iff_eq_none, beq_iff_eq] at h
  obtain ⟨⟨⟨⟨⟨⟨hf, hc⟩, -⟩, -⟩, -⟩, -⟩, hm⟩ := h
  exact inv_of_fetch hm hc hf

theorem inv_construction (stream : Option (List TapeByte)) (pc : Word) :
    ((loadTape stream State.reset).1.setPc pc).Inv := by
  obtain ⟨m, h, hm⟩ := loadTape_frame stream (s := State.reset) Memory.wf_nil
  rw [h]
  exact inv_of_fetch hm rfl rfl

/-- No operation of the driver writes memory, STATE, IR or FAULT (R40, R41, R292, R293). -/
theorem inv_driverOp {s : State} (h : s.Inv) (op : DriverOp) : (op.apply s).Inv := by
  cases op <;> exact h

theorem inv_move {s t : State} {m : Move} (h : s.Inv) (ht : m.apply s = .next t) : t.Inv := by
  cases m with
  | step => exact Proofs.everyStepKeepsTheInvariant s t h ht
  | driver op =>
    cases ht
    exact inv_driverOp h op

theorem inv_of_reachable {s : State} (h : Reachable s) : s.Inv := by
  induction h with
  | construction stream pc => exact inv_construction stream pc
  | launch h => exact inv_of_isLaunch h
  | move m _ ht ih => exact inv_move ih ht

/-- With the invariant, Execute has an opcode with an Execute part, so a step without FAULT has a next state (R115). -/
theorem step_next_of_inv {s : State} (h : s.Inv) (hf : s.fault = none) : ∃ t, step s = .next t := by
  obtain ⟨-, hl, -⟩ := h
  exact step_next_exists hf fun hc => (cycleLegal_execute hc).symm.trans hl

theorem step_ne_violation_of_inv {s : State} (h : s.Inv) : step s ≠ .fault .internalInvariantViolation := by
  cases hf : s.fault with
  | none =>
    obtain ⟨t, ht⟩ := step_next_of_inv h hf
    simp [ht]
  | some k => simp [step_of_fault hf]

end Sys2Proof.Machine
end

section
/-! PROOFS. The statements about the exceptions (spec/60_exceptions.md). -/

namespace Sys2Proof.Proofs

open Sys2Proof.Machine Sys2Proof.Claims

/-- Settles O44: every reachable state has the invariant, and the other two parts follow from it. -/
theorem noReachableStateViolatesTheTransitionTable : Obligations.NoReachableStateViolatesTheTransitionTable := by
  unfold Obligations.NoReachableStateViolatesTheTransitionTable
  intro s hr
  have h := inv_of_reachable hr
  exact ⟨h, step_ne_violation_of_inv h, step_next_of_inv h⟩

/-- Settles O58: load answers the image and the last origin, which a byte that completes nothing leaves alone. -/
theorem readableStreamsNeverFail : Obligations.ReadableStreamsNeverFail := by
  unfold Obligations.ReadableStreamsNeverFail
  refine fun m => ⟨rfl, fun bs => ⟨_, _, load_some bs m⟩, fun bs b h => ?_⟩
  obtain ⟨himg, hlo⟩ := LoaderState.consume_incomplete h
  rw [load_some, load_some, LoaderState.consumeAll_concat, himg, hlo]

end Sys2Proof.Proofs
end

section
/-! SUPPORT. MB is dead in Defer and Execute: both read their cell into it before anything uses it
(spec/40_cycle_engine.md R105, R108; spec/70_reset_and_hazards.md R294). -/

namespace Sys2Proof.Machine

/-- Defer's first write is to MB (R105). -/
theorem derefPointer_setMb (s : State) (x : Word) : derefPointer (s.setMb x) = derefPointer s := by
  cases h : isAutoIncrement s.ma
  · rw [derefPointer_plain h, derefPointer_plain (s := s.setMb x) h]
    rfl
  · rw [derefPointer_auto h, derefPointer_auto (s := s.setMb x) h]
    rfl

/-- The operand read overwrites MB (R108). -/
theorem loadOperand_setMb (s : State) (x : Word) : loadOperand (s.setMb x) = loadOperand s := rfl

theorem step_defer_setMb {s : State} (hf : s.fault = none) (hc : s.cycle = .defer) (x : Word) :
    step (s.setMb x) = step s := by
  rw [step_defer hf hc, step_defer (s := s.setMb x) hf hc, derefPointer_setMb]
  rfl

theorem step_execute_setMb {s : State} (hf : s.fault = none) (hc : s.cycle = .execute) (x : Word) :
    step (s.setMb x) = step s := by
  rw [step_execute hf hc, step_execute (s := s.setMb x) hf hc, loadOperand_setMb]
  rfl

theorem step_setMb {s : State} (hc : s.cycle = .defer ∨ s.cycle = .execute) (x : Word) :
    step (s.setMb x) = step s := by
  cases hf : s.fault with
  | some k => rw [step_of_fault hf, step_of_fault (s := s.setMb x) hf]
  | none => exact hc.elim (step_defer_setMb hf · x) (step_execute_setMb hf · x)

end Sys2Proof.Machine
end

section
/-! SUPPORT. Launch states are what start makes of a state at Fetch without FAULT and with canonical memory
(spec/70_reset_and_hazards.md R293, R296, R298). -/

namespace Sys2Proof.Machine

theorem isLaunch_iff {s : State} :
    isLaunch s = true ↔
      s.fault = none ∧ s.cycle = .fetch ∧ s.run = true ∧ s.ac = 0 ∧ s.l = 0 ∧ s.mb = 0 ∧ s.mem.wf = true := by
  simp only [isLaunch, Bool.and_eq_true, Option.isNone_iff_eq_none, beq_iff_eq, and_assoc]

theorem start_eq (s : State) : start s = { s with ac := 0, l := 0, mb := 0, run := true } := rfl

theorem isLaunch_start {s : State} (hm : s.mem.wf = true) (hc : s.cycle = .fetch) (hf : s.fault = none) :
    isLaunch (start s) = true := by
  rw [start_eq]
  exact isLaunch_iff.2 ⟨hf, hc, rfl, rfl, rfl, rfl, hm⟩

/-- start changes nothing in a launch state, and the values that launch takes are all that R298 leaves open but SS. -/
theorem eq_launch_of_isLaunch {s : State} (h : isLaunch s = true) :
    s = { launch s.pc s.mem s.sr s.ma s.ir s.cyc s.ins with ss := s.ss } := by
  obtain ⟨pc, ac, l, ma, mb, sr, ir, run, cycle, cyc, ins, mem, fault, ss⟩ := s
  obtain ⟨rfl, rfl, rfl, rfl, rfl, rfl, -⟩ := isLaunch_iff.1 h
  rfl

/-- Neither load nor the switches nor the launch PC writes STATE or FAULT (R296). -/
theorem isLaunch_boot (tape : Option (List TapeByte)) (switches : Option Nat) (pc : Word) :
    isLaunch (boot tape switches pc) = true := by
  obtain ⟨m, h, hm⟩ := loadTape_frame tape (s := State.reset) Memory.wf_nil
  simp only [boot, h]
  cases switches <;> exact isLaunch_start hm rfl rfl

end Sys2Proof.Machine
end

section
/-! PROOFS. The statements about reset and hazards (spec/70_reset_and_hazards.md). -/

namespace Sys2Proof.Proofs

open Sys2Proof.Machine Sys2Proof.Claims

/-- Settles O52: Defer and Execute each write MB before they read it. -/
theorem clearingMbMidInstructionChangesNothing : Obligations.ClearingMbMidInstructionChangesNothing := by
  unfold Obligations.ClearingMbMidInstructionChangesNothing
  exact fun _ x hc => step_setMb hc x

/-- Settles O42: the reset state and every launch state are at Fetch without FAULT, where the form of memory is all the
invariant asks; launch and boot end with start. -/
theorem invariantHoldsAtConstruction : Obligations.InvariantHoldsAtConstruction := by
  unfold Obligations.InvariantHoldsAtConstruction
  exact ⟨inv_of_fetch Memory.wf_nil rfl rfl, fun _ => inv_of_isLaunch,
    fun _ _ _ _ _ _ _ hm => isLaunch_start hm rfl rfl, fun _ => eq_launch_of_isLaunch, isLaunch_boot⟩

/-- Settles O49: start is the driver's reset followed by setting RUN, four register writes. -/
theorem startClearsThreeRegistersAndSetsRun : Obligations.StartClearsThreeRegistersAndSetsRun := by
  unfold Obligations.StartClearsThreeRegistersAndSetsRun
  exact start_eq

end Sys2Proof.Proofs
end
